-- ==== Sys2Proof/Word.lean ====
section
/-! DEFINITION. The word types of the block: a byte of the register bus (R50), a 16-bit result register or
operand field (R25, R81), a 32-bit error register (R29, R30) and a 64-bit command word (R80). -/

namespace Sys2Proof

/-- One byte: a register address or a register value (R50). -/
abbrev Byte := BitVec 8

/-- Sixteen bits: a result register (R25) or an operand field (R81). -/
abbrev Half := BitVec 16

/-- Thirty-two bits: an error register (R29, R30) or the value a host register read returns (R40). -/
abbrev Word32 := BitVec 32

/-- A command word (R80). -/
abbrev CmdWord := BitVec 64

end Sys2Proof
end

