-- ==== Sys2Proof/Syntax.lean ====
section
/-! DEFINITION. The fourteen commands, one constructor per row of spec/opcode_table.json (R84), with their operands at
the types of R82, and the pseudo-instructions of R90. -/

namespace Sys2Proof

/-- A decoded command. A `slot` is the whole 8-bit field (R87: 16 and above decode); `bytes4` and `byte` operands are
bytes, every other operand is its whole 16-bit field (R82). -/
inductive Instr where
  | mkled (slot : Byte) (index : Half)
  | chidx (slot : Byte)
  | regoff (slot : Byte) (base : Byte)
  | addr (slot : Byte)
  | rdch (slot : Byte)
  | wrch (slot : Byte) (d0 d1 d2 d3 : Byte)
  | init
  | setrate (prescale : Byte)
  | calcps (rate : Half)
  | setch (slot : Byte) (on off : Half)
  | setall (on off : Half)
  | mkservo (slot : Byte) (index min max : Half)
  | d2p (slot : Byte) (angle : Half)
  | p2d (slot : Byte) (ticks : Half)
  deriving DecidableEq, Repr

/-- The mnemonic of a command (R84). -/
def Instr.mnemonic : Instr → String
  | .mkled _ _ => "MKLED"
  | .chidx _ => "CHIDX"
  | .regoff _ _ => "REGOFF"
  | .addr _ => "ADDR"
  | .rdch _ => "RDCH"
  | .wrch _ _ _ _ _ => "WRCH"
  | .init => "INIT"
  | .setrate _ => "SETRATE"
  | .calcps _ => "CALCPS"
  | .setch _ _ _ => "SETCH"
  | .setall _ _ => "SETALL"
  | .mkservo _ _ _ _ => "MKSERVO"
  | .d2p _ _ => "D2P"
  | .p2d _ _ => "P2D"

/-- The pseudo-instructions of R90: each is one command and a choice of result registers. -/
inductive Pseudo where
  | onlow (slot : Byte)
  | onhigh (slot : Byte)
  | offlow (slot : Byte)
  | offhigh (slot : Byte)
  | onaddrs (slot : Byte)
  | offaddrs (slot : Byte)
  | baseaddr (slot : Byte)
  | mkservoD (slot : Byte) (index : Half)
  deriving DecidableEq, Repr

/-- The command a pseudo-instruction expands to (R90). -/
def Pseudo.expand : Pseudo → Instr
  | .onlow s => .addr s
  | .onhigh s => .addr s
  | .offlow s => .addr s
  | .offhigh s => .addr s
  | .onaddrs s => .addr s
  | .offaddrs s => .addr s
  | .baseaddr s => .addr s
  | .mkservoD s i => .mkservo s i 0 4095

end Sys2Proof
end

