-- ==== Sys2Proof/WellFormed.lean ====
section
/-! DEFINITION. Which command words are legal: the match and mask table of R85. The operand types of `Instr` make every
`Instr` well-formed, so the check is on the word: R83's must-be-zero bits and R84's opcodes. -/

namespace Sys2Proof

/-- One row of R85: a word is this row's command exactly when `w &&& mask = pattern`. -/
structure OpRow where
  mnemonic : String
  pattern : CmdWord
  mask : CmdWord
  deriving DecidableEq, Repr

/-- The table of R85, in the order of spec/opcode_table.json. -/
def opRows : List OpRow :=
  [ ⟨"MKLED", 0x1000000000000000, 0xFF000000FFFFFFFF⟩,
    ⟨"CHIDX", 0x1100000000000000, 0xFF00FFFFFFFFFFFF⟩,
    ⟨"REGOFF", 0x1200000000000000, 0xFF00FF00FFFFFFFF⟩,
    ⟨"ADDR", 0x1300000000000000, 0xFF00FFFFFFFFFFFF⟩,
    ⟨"RDCH", 0x1400000000000000, 0xFF00FFFFFFFFFFFF⟩,
    ⟨"WRCH", 0x1500000000000000, 0xFF0000000000FFFF⟩,
    ⟨"INIT", 0x2000000000000000, 0xFFFFFFFFFFFFFFFF⟩,
    ⟨"SETRATE", 0x2100000000000000, 0xFFFFFF00FFFFFFFF⟩,
    ⟨"CALCPS", 0x2200000000000000, 0xFFFF0000FFFFFFFF⟩,
    ⟨"SETCH", 0x2300000000000000, 0xFF0000000000FFFF⟩,
    ⟨"SETALL", 0x2400000000000000, 0xFFFF00000000FFFF⟩,
    ⟨"MKSERVO", 0x3000000000000000, 0xFF00000000000000⟩,
    ⟨"D2P", 0x3100000000000000, 0xFF000000FFFFFFFF⟩,
    ⟨"P2D", 0x3200000000000000, 0xFF000000FFFFFFFF⟩ ]

/-- `w` is the command of row `r` (R85). -/
def OpRow.matches (r : OpRow) (w : CmdWord) : Bool := w &&& r.mask == r.pattern

/-- `w` matches some row of R85; every other word is illegal (R86). -/
def wellFormedWord (w : CmdWord) : Bool := opRows.any (·.matches w)

/-- The mnemonic of the row `w` matches, if any (R85: at most one). -/
def rowOf (w : CmdWord) : Option String := (opRows.find? (·.matches w)).map (·.mnemonic)

end Sys2Proof
end

