-- ==== Sys2Proof/Decode.lean ====
section
/-! DEFINITION. Decoding a command word into an `Instr` by the order of R88, refusing by name, and the encoder of
R81, R82. Decoding never depends on the block's state. -/

namespace Sys2Proof

/-- Why a word is illegal (R86, R88): its opcode is none of the fourteen, or a must-be-zero bit is set. -/
inductive DecodeError where
  | unknownOpcode
  | nonZeroReserved
  deriving DecidableEq, Repr

/-- `op` (R81). -/
def opOf (w : CmdWord) : Byte := w.extractLsb' 56 8
/-- `slot` (R81). -/
def slotOf (w : CmdWord) : Byte := w.extractLsb' 48 8
/-- `a` (R81). -/
def aOf (w : CmdWord) : Half := w.extractLsb' 32 16
/-- `b` (R81). -/
def bOf (w : CmdWord) : Half := w.extractLsb' 16 16
/-- `c` (R81). -/
def cOf (w : CmdWord) : Half := w.extractLsb' 0 16

/-- Bits 7:0 of an operand field (R82). -/
def lowByte (v : Half) : Byte := v.extractLsb' 0 8
/-- Bits 15:8 of an operand field (R82). -/
def highByte (v : Half) : Byte := v.extractLsb' 8 8

/-- The command `i`, unless a must-be-zero field of its row is not zero (R88 step 2). -/
def require (zero : Bool) (i : Instr) : Except DecodeError Instr :=
  if zero then .ok i else .error .nonZeroReserved

/-- R88 on the five fields: the opcode, then the must-be-zero fields of its row (R85), then the operands (R82). -/
def decodeFields (op slot : Byte) (a b c : Half) : Except DecodeError Instr :=
  match op.toNat with
  | 0x10 => require (b == 0 && c == 0) (.mkled slot a)
  | 0x11 => require (a == 0 && b == 0 && c == 0) (.chidx slot)
  | 0x12 => require (highByte a == 0 && b == 0 && c == 0) (.regoff slot (lowByte a))
  | 0x13 => require (a == 0 && b == 0 && c == 0) (.addr slot)
  | 0x14 => require (a == 0 && b == 0 && c == 0) (.rdch slot)
  | 0x15 => require (c == 0) (.wrch slot (lowByte a) (highByte a) (lowByte b) (highByte b))
  | 0x20 => require (slot == 0 && a == 0 && b == 0 && c == 0) .init
  | 0x21 => require (slot == 0 && highByte a == 0 && b == 0 && c == 0) (.setrate (lowByte a))
  | 0x22 => require (slot == 0 && b == 0 && c == 0) (.calcps a)
  | 0x23 => require (c == 0) (.setch slot a b)
  | 0x24 => require (slot == 0 && c == 0) (.setall a b)
  | 0x30 => .ok (.mkservo slot a b c)
  | 0x31 => require (b == 0 && c == 0) (.d2p slot a)
  | 0x32 => require (b == 0 && c == 0) (.p2d slot a)
  | _ => .error .unknownOpcode

/-- R88: a command word is decoded from its five fields (R81). -/
def decode (w : CmdWord) : Except DecodeError Instr := decodeFields (opOf w) (slotOf w) (aOf w) (bOf w) (cOf w)

/-- A command word from its five fields (R81). -/
def packWord (op slot : Byte) (a b c : Half) : CmdWord := op ++ slot ++ a ++ b ++ c

/-- The word of a command (R81, R82, R84, R85). -/
def encode : Instr → CmdWord
  | .mkled slot index => packWord 0x10 slot index 0 0
  | .chidx slot => packWord 0x11 slot 0 0 0
  | .regoff slot base => packWord 0x12 slot (0#8 ++ base) 0 0
  | .addr slot => packWord 0x13 slot 0 0 0
  | .rdch slot => packWord 0x14 slot 0 0 0
  | .wrch slot d0 d1 d2 d3 => packWord 0x15 slot (d1 ++ d0) (d3 ++ d2) 0
  | .init => packWord 0x20 0 0 0 0
  | .setrate prescale => packWord 0x21 0 (0#8 ++ prescale) 0 0
  | .calcps rate => packWord 0x22 0 rate 0 0
  | .setch slot on off => packWord 0x23 slot on off 0
  | .setall on off => packWord 0x24 0 on off 0
  | .mkservo slot index min max => packWord 0x30 slot index min max
  | .d2p slot angle => packWord 0x31 slot angle 0 0
  | .p2d slot ticks => packWord 0x32 slot ticks 0 0

/-- The 64-bit command word whose low `nbits` bits are `w` and whose other bits are zero. -/
def tableWord (nbits w : Nat) : CmdWord := BitVec.ofNat 64 (w % 2 ^ nbits)

/-- What the decoder reads from a word numbered as spec/opcode_table.json numbers it: the whole word is given at once
(R80), so there is no byte order to undo. -/
def decodeTableWord (nbits w : Nat) : Option Instr := (decode (tableWord nbits w)).toOption

end Sys2Proof
end

