-- ==== Sys2Proof/Config.lean ====
section
/-! DEFINITION. The implementation parameters of R7 at the values this hardware takes, and the free values: opaque
constants with no body, of which nothing can be proved. -/

namespace Sys2Proof

/-- What the far side of the Bus Transport does with one access (R59, R60, R71). -/
inductive BusAnswer where
  /-- The reference chip of R60 answers: a read gives the stored byte, a write stores. -/
  | chip
  /-- Success: a read gives this byte whatever is stored (R59), a write stores. -/
  | byte (b : Byte)
  /-- Failure with this error value; a write is not stored (R60, R71). -/
  | error (e : Word32)
  /-- Failure with this error value after a write did reach the chip (R167: that is unknown to the block). -/
  | errorStored (e : Word32)
  /-- No answer yet: the step under way, an access or a wait, goes on into the next machine step. -/
  | later
  deriving DecidableEq, Repr, Inhabited

/-- How `CALCPS` narrows to 8 bits (R7, D14). -/
inductive Narrow where
  | wrap
  | saturate
  deriving DecidableEq, Repr

/-- `OSC_FREQ` in hertz (R7). PRESUMED by the spec itself (D12, G1), unsafe: log entry 12. -/
def Config.oscFreq : Nat := 25000000

/-- `T_SETTLE_MS` (R7, R67), a lower bound in milliseconds: log entry 13. -/
def Config.settleMs : Nat := 5

/-- `NSLOT` (R7). -/
abbrev Config.nslot : Nat := 16

/-- `TICK_MAX` (R7). -/
def Config.tickMax : Nat := 4095

/-- `PRESCALE_NARROW` (R7): `wrap`, the value this hardware takes. -/
def Config.prescaleNarrow : Narrow := .wrap

/-- Free value (U8): the n-th answer of a far side that is in its free mode. Log entry 3. -/
opaque Config.busAnswer : Nat → BusAnswer

/-- Free value (R36, U9): what the n-th host register read made while `busy` = 1 returns. Log entry 6. -/
opaque Config.busyRead : Nat → Word32

/-- Free value (R192, U13): whether the write in flight at the n-th reset while busy reached the chip. Log entry 7. -/
opaque Config.inFlightLands : Nat → Bool

end Sys2Proof
end

