-- ==== Sys2Proof/Machine/State.lean ====
section
/-! DEFINITION. The state as plain data: the block's state of R20 to R38, the host's pending actions, the far side of the
Bus Transport (R59, R60) and the record of events (R61); the reasons a step can stop; the state after reset. -/

namespace Sys2Proof.Machine

/-- `kind` of a slot (R21): 0 = LedChannel, 1 = ServoChannel. -/
inductive Kind where
  | led
  | servo
  deriving DecidableEq, Repr

/-- A channel descriptor (R21). -/
structure Slot where
  valid : Bool
  kind : Kind
  index : BitVec 4
  minTick : BitVec 12
  maxTick : BitVec 12
  deriving DecidableEq, Repr

/-- A slot after reset (R38). -/
def Slot.empty : Slot := ⟨false, .led, 0, 0, 0⟩

/-- `seq.op` (R33): which sequence runs. `WRCH` serves `SETCH` too. -/
inductive SeqOp where
  | idle
  | init
  | setrate
  | rdch
  | wrch
  | setall
  deriving DecidableEq, Repr

/-- The sequencer (R33, R34). `index`, `d0` to `d3` and `m` are the model's own fields: the running command's operands
and the byte `m` of `INIT` (log entry 8). -/
structure Sequencer where
  op : SeqOp
  step : BitVec 4
  oldMode : Byte
  buf0 : Byte
  buf1 : Byte
  buf2 : Byte
  buf3 : Byte
  index : BitVec 4
  d0 : Byte
  d1 : Byte
  d2 : Byte
  d3 : Byte
  m : Byte
  deriving DecidableEq, Repr

/-- The idle sequencer (R38). DESIGN CHOICE: the temporaries are 0 (log entries 1 and 8). -/
def Sequencer.idle : Sequencer := ⟨.idle, 0, 0, 0, 0, 0, 0, 0, 0, 0, 0, 0, 0⟩

/-- One entry of the record of bus accesses and waits (R61). -/
inductive Event where
  | rd (addr value : Byte)
  | rdErr (addr : Byte) (e : Word32)
  | wr (addr value : Byte)
  | wrErr (addr value : Byte) (e : Word32)
  | wait (ms : Nat)
  deriving DecidableEq, Repr

/-- What the host does next (R3, R35, R36, R190). -/
inductive HostAct where
  /-- The host does nothing: the block moves. -/
  | pass
  /-- The host presents a command word (R35, R80). -/
  | command (w : CmdWord)
  /-- The host reads the register of this number (R36, R40). -/
  | read (number : Nat)
  /-- Reset is applied (R190). -/
  | reset
  deriving DecidableEq, Repr

/-- Who answers an access once the script of answers is used up. -/
inductive FarRest where
  /-- The reference chip of R60. -/
  | chip
  /-- Nobody: the access stays unanswered (R72). -/
  | silent
  /-- Free values (R59, U8). -/
  | free
  deriving DecidableEq, Repr

/-- The far side of the Bus Transport: the answers to come, who answers after them, how many free answers were drawn,
and the reference chip's register store `creg` (R60) in canonical form. -/
structure FarSide where
  script : List BusAnswer
  rest : FarRest
  draws : Nat
  creg : List Host.Cell
  deriving DecidableEq, Repr

/-- The whole machine. The first part is the block's state (R20); `host`, `readLog`, `fresh`, `far` and `events` are the
model's own fields for the other agents and the record of what they observe (R16). -/
structure State where
  /-- Descriptor slots `ch[s]` (R21). -/
  ch : Vector Slot Config.nslot
  /-- Result registers `res[0]` to `res[3]` (R25). -/
  res0 : Half
  res1 : Half
  res2 : Half
  res3 : Half
  /-- `STATUS.code` (R28). -/
  code : Byte
  /-- `ERRMIN`, `ERRMAX`, `ERRVAL` (R29). -/
  errMin : Word32
  errMax : Word32
  errVal : Word32
  /-- `ERRBUS` (R30). -/
  errBus : Word32
  /-- `ctl.valid` (R31). -/
  ctlValid : Bool
  /-- `seq` (R33, R34). -/
  seq : Sequencer
  /-- `busy` (R35). -/
  busy : Bool
  /-- The host's actions to come, oldest first. -/
  host : List HostAct
  /-- Register numbers the host has read and the values it got, oldest first. -/
  readLog : List (Nat × Word32)
  /-- Counter of the free values drawn for reads and resets while busy. -/
  fresh : Nat
  /-- The far side of the Bus Transport. -/
  far : FarSide
  /-- All events so far, oldest first (R61, R66). -/
  events : List Event
  deriving DecidableEq, Repr

/-- Why the machine stops with a fault. -/
inductive Fault where
  /-- Raised by the sequencer when it is busy in a row that no step table has (R109, R123, R126, R131): a state no run
  from reset reaches and for which the rules give no next step. Safe: the machine stops where the rules are silent. -/
  | noStepRow
  deriving DecidableEq, Repr

/-- Why an instruction is refused without a meaning. -/
inductive Refusal where
  /-- Raised by `exec` for an instruction that has no meaning yet; no arm does. Safe. -/
  | notModelled (mnemonic : String)
  deriving DecidableEq, Repr

/-- The far side before anything has happened. DESIGN CHOICE (log entries 3 and 4): the reference chip answers and holds
0x00 everywhere. -/
def FarSide.initial : FarSide := ⟨[], .chip, 0, []⟩

/-- The machine right after reset (R38, R190). DESIGN CHOICE (log entry 1): the registers that R38 leaves unspecified
hold 0. -/
def State.reset : State where
  ch := Vector.replicate Config.nslot Slot.empty
  res0 := 0
  res1 := 0
  res2 := 0
  res3 := 0
  code := 0
  errMin := 0
  errMax := 0
  errVal := 0
  errBus := 0
  ctlValid := false
  seq := Sequencer.idle
  busy := false
  host := []
  readLog := []
  fresh := 0
  far := FarSide.initial
  events := []

/-- The outcome of a step of this machine. -/
abbrev Result := Host.Outcome State Fault Refusal

end Sys2Proof.Machine
end

