-- ==== Sys2Proof/Machine/Flags.lean ====
section
/-! DEFINITION. The exceptions and their status codes (R161). The block has no condition flags (R37): `STATUS.code` is the
only status a command sets. -/

namespace Sys2Proof.Machine

/-- An exception of the pseudocode with what it carries (R161). -/
inductive Exn where
  | rangeIndex (min max value : Int)
  | rangeAngle (min max value : Int)
  | rangeTicks (min max value : Int)
  | rangeSettings (min max value : Int)
  | transport (e : Word32)
  | arith
  | noController
  | badSlot
  | badKind
  | illegalCmd
  deriving DecidableEq, Repr

/-- The code `OK` (R161). -/
def codeOk : Byte := 0

/-- The status code of an exception (R161). -/
def Exn.code : Exn → Byte
  | .rangeIndex _ _ _ => 1
  | .rangeAngle _ _ _ => 2
  | .rangeTicks _ _ _ => 3
  | .rangeSettings _ _ _ => 4
  | .transport _ => 5
  | .arith => 6
  | .noController => 7
  | .badSlot => 8
  | .badKind => 9
  | .illegalCmd => 10

end Sys2Proof.Machine
end

