-- ==== Sys2Proof/Machine/Memory.lean ====
section
/-! DEFINITION. The reference chip's register store (R60): the 256 one-byte locations of R50 as (address, byte) pairs with
rising addresses, none of them 0x00. An unlisted address reads as 0x00 (log entry 4). -/

namespace Sys2Proof.Machine

/-- What an unlisted address reads as. DESIGN CHOICE (log entry 4), unsafe for a real chip. -/
def Memory.blank : Byte := 0

/-- The byte at an address. -/
def Memory.read : List Host.Cell → Byte → Byte
  | [], _ => Memory.blank
  | (b, x) :: m, a => if a.toNat = b then x else Memory.read m a

/-- Store one byte, keeping the canonical form. -/
def Memory.write : List Host.Cell → Byte → Byte → List Host.Cell
  | [], a, v => if v = Memory.blank then [] else [(a.toNat, v)]
  | (b, x) :: m, a, v =>
    if a.toNat < b then (if v = Memory.blank then (b, x) :: m else (a.toNat, v) :: (b, x) :: m)
    else if a.toNat = b then (if v = Memory.blank then m else (a.toNat, v) :: m)
    else (b, x) :: Memory.write m a v

/-- The canonical form: addresses of one byte, strictly rising, no entry equal to what an unlisted address reads as. -/
def Memory.wf : List Host.Cell → Bool
  | [] => true
  | (b, x) :: m => decide (b < 256) && decide (x ≠ Memory.blank) && m.all (fun c => decide (b < c.1)) && Memory.wf m

end Sys2Proof.Machine
end

