-- ==== Sys2Proof/Machine/Ops.lean ====
section
/-! DEFINITION. The named operations over the state: writing each register, completing a command (R28), TAKING AN
EXCEPTION (R166) as one operation, and the Bus Transport's two accesses (R51). There is no return from an exception
(R168). -/

namespace Sys2Proof.Machine

/-- `ch[n] <- c`, whole (R23). -/
def State.setSlot (s : State) (n : Fin Config.nslot) (c : Slot) : State := { s with ch := s.ch.set n c }

/-- `res[0] <- v` (R10). -/
def State.setRes0 (s : State) (v : Half) : State := { s with res0 := v }

/-- `res[0..3] <- …` (R10). -/
def State.setRes (s : State) (v0 v1 v2 v3 : Half) : State := { s with res0 := v0, res1 := v1, res2 := v2, res3 := v3 }

/-- `STATUS.code <- c` (R28). -/
def State.setCode (s : State) (c : Byte) : State := { s with code := c }

/-- `ERRMIN`, `ERRMAX`, `ERRVAL`, written together as signed 32-bit integers (R29, R162). -/
def State.setRange (s : State) (mn mx v : Int) : State :=
  { s with errMin := BitVec.ofInt 32 mn, errMax := BitVec.ofInt 32 mx, errVal := BitVec.ofInt 32 v }

/-- `ERRBUS <- e` (R30). -/
def State.setErrBus (s : State) (e : Word32) : State := { s with errBus := e }

/-- `ctl.valid <- b` (R31). -/
def State.setCtl (s : State) (b : Bool) : State := { s with ctlValid := b }

/-- The sequencer (R33, R34). -/
def State.setSeq (s : State) (q : Sequencer) : State := { s with seq := q }

/-- `busy <- b` (R35). -/
def State.setBusy (s : State) (b : Bool) : State := { s with busy := b }

/-- The host's actions to come. -/
def State.setHost (s : State) (h : List HostAct) : State := { s with host := h }

/-- The far side of the Bus Transport. -/
def State.setFar (s : State) (f : FarSide) : State := { s with far := f }

/-- Record one event (R61). -/
def State.log (s : State) (e : Event) : State := { s with events := s.events ++ [e] }

/-- Record one register read of the host. -/
def State.logRead (s : State) (n : Nat) (v : Word32) : State := { s with readLog := s.readLog ++ [(n, v)] }

/-- Use up one free value. -/
def State.draw (s : State) : State := { s with fresh := s.fresh + 1 }

/-- `seq.op <- IDLE`, `seq.step <- 0`, `busy <- 0` (R33, R35, R166d); the temporaries do not survive (R34, log entry 8). -/
def State.toIdle (s : State) : State := (s.setSeq Sequencer.idle).setBusy false

/-- A command ends with `STATUS.code <- OK` (R28, R35). -/
def State.complete (s : State) : State := (s.setCode codeOk).toIdle

/-- The error registers an exception writes (R166b). -/
def State.setErrors (s : State) : Exn → State
  | .rangeIndex mn mx v => s.setRange mn mx v
  | .rangeAngle mn mx v => s.setRange mn mx v
  | .rangeTicks mn mx v => s.setRange mn mx v
  | .rangeSettings mn mx v => s.setRange mn mx v
  | .transport e => s.setErrBus e
  | .arith => s
  | .noController => s
  | .badSlot => s
  | .badKind => s
  | .illegalCmd => s

/-- TAKING AN EXCEPTION (R166): error registers, status code, back to idle; nothing else (R167). -/
def State.raise (s : State) (x : Exn) : State := ((s.setErrors x).setCode x.code).toIdle

/-- How a command with no bus access and no wait ends: completed in the state it computed, or with its exception taken
in the state it started from (R27, R167). -/
def State.settle (s : State) (r : Except Exn State) : State :=
  match r with
  | .ok t => t.complete
  | .error x => s.raise x

/-- The answer to the next access and the far side after it; `none`: no answer yet (R59, R72). -/
def FarSide.next (f : FarSide) : Option BusAnswer × FarSide :=
  match f.script with
  | a :: as => (some a, { f with script := as })
  | [] =>
    match f.rest with
    | .chip => (some .chip, f)
    | .silent => (none, f)
    | .free => (some (Config.busAnswer f.draws), { f with draws := f.draws + 1 })

/-- The chip took a write: `creg[a] <- v` (R60). -/
def FarSide.store (f : FarSide) (a v : Byte) : FarSide := { f with creg := Memory.write f.creg a v }

/-- `read_register(a)` (R51): no answer yet, a byte, or an error. A read has no effect on the store (R60). -/
def FarSide.read (f : FarSide) (a : Byte) : Option (Except Word32 Byte) × FarSide :=
  match f.next.1 with
  | some .chip => (some (.ok (Memory.read f.creg a)), f.next.2)
  | some (.byte b) => (some (.ok b), f.next.2)
  | some (.error e) => (some (.error e), f.next.2)
  | some (.errorStored e) => (some (.error e), f.next.2)
  | some .later => (none, f.next.2)
  | none => (none, f.next.2)

/-- `write_register(a, v)` (R51): no answer yet, success, or an error. A success stores; a failure stores only if the
answer says so (R60, R167, log entry 5). -/
def FarSide.write (f : FarSide) (a v : Byte) : Option (Except Word32 Unit) × FarSide :=
  match f.next.1 with
  | some .chip => (some (.ok ()), f.next.2.store a v)
  | some (.byte _) => (some (.ok ()), f.next.2.store a v)
  | some (.error e) => (some (.error e), f.next.2)
  | some (.errorStored e) => (some (.error e), f.next.2.store a v)
  | some .later => (none, f.next.2)
  | none => (none, f.next.2)

/-- Whether the wait under way goes on into the next machine step (log entry 11), and the far side after it. -/
def FarSide.waitGoesOn (f : FarSide) : Bool × FarSide :=
  match f.script with
  | .later :: as => (true, { f with script := as })
  | _ => (false, f)

end Sys2Proof.Machine
end

