-- ==== Sys2Proof/Machine/Operands.lean ====
section
/-! DEFINITION. Operand forms and the shared functions and checks of the command rules: R9's number forms, the address
calculator R100, the byte split R121, the slot checks R101 and R142, the gate R120. -/

namespace Sys2Proof.Machine

/-- `round(n / d)` for a non-negative quotient: `floor(n/d + 1/2)`, a tie going up (R9). -/
def roundDiv (n d : Nat) : Nat := (2 * n + d) / (2 * d)

/-- `zext_16` of a byte (R9). -/
def zextByte (b : Byte) : Half := b.setWidth 16

/-- A number held in a 16-bit register (R104, R143). -/
def half (n : Nat) : Half := BitVec.ofNat 16 n

/-- `sext_16` of a signed number (R9, R144). -/
def sext (n : Int) : Half := BitVec.ofInt 16 n

/-- `regoff(base, i) = base + 4 * i`, exact (R100). -/
def regoff (base : Nat) (i : BitVec 4) : Nat := base + 4 * i.toNat

/-- A RegisterQuad (R14, R100). -/
structure Quad where
  onLow : Nat
  onHigh : Nat
  offLow : Nat
  offHigh : Nat
  deriving DecidableEq, Repr

/-- `quad(i)` (R100). -/
def quad (i : BitVec 4) : Quad := ⟨regoff 0x06 i, regoff 0x07 i, regoff 0x08 i, regoff 0x09 i⟩

/-- An address as the byte given to the Bus Transport (R69). -/
def busAddr (n : Nat) : Byte := BitVec.ofNat 8 n

/-- `lo(v) = v & 0xFF` (R121). -/
def lo (v : Half) : Byte := (v &&& 0xFF).setWidth 8

/-- `hi(v) = v >> 8` (R121). -/
def hi (v : Half) : Byte := (v >>> 8).setWidth 8

/-- `MODE_1` (R54). -/
def mode1 : Byte := 0x00
/-- `MODE_2` (R54). -/
def mode2 : Byte := 0x01
/-- `PRE_SCALE` (R54). -/
def preScale : Byte := 0xFE
/-- `ALL_LED_ON_LOW`, the first of the four all-channels registers (R54). -/
def allLed : Nat := 0xFA
/-- `RESTART` (R57). -/
def restartBit : Byte := 0x80
/-- `SLEEP` (R57). -/
def sleepBit : Byte := 0x10
/-- `ALL_CALL` (R57). -/
def allCallBit : Byte := 0x01
/-- `OUTDRV` (R57). -/
def outdrvBit : Byte := 0x04

/-- `NewSlot(s)` (R101). -/
def newSlot (slot : Byte) : Except Exn (Fin Config.nslot) :=
  if h : slot.toNat < Config.nslot then .ok ⟨slot.toNat, h⟩ else .error .badSlot

/-- `UseSlot(s)`: the descriptor a command reads (R101). -/
def useSlot (s : State) (slot : Byte) : Except Exn Slot :=
  if h : slot.toNat < Config.nslot then
    (if s.ch[slot.toNat].valid then .ok s.ch[slot.toNat] else .error .badSlot)
  else .error .badSlot

/-- `ServoSlot(s)`: the descriptor of a ServoChannel (R142). -/
def servoSlot (s : State) (slot : Byte) : Except Exn Slot :=
  match useSlot s slot with
  | .ok c => if c.kind = .led then .error .badKind else .ok c
  | .error x => .error x

/-- `RequireCtl` (R120). -/
def requireCtl (s : State) : Except Exn Unit :=
  if s.ctlValid then .ok () else .error .noController

/-- The index check of `MKLED` and `MKSERVO` (R102, R141). -/
def checkIndex (index : Half) : Except Exn (BitVec 4) :=
  if index.toNat > 15 then .error (.rangeIndex 0 15 index.toNat) else .ok (index.setWidth 4)

end Sys2Proof.Machine
end

