-- ==== Sys2Proof/Machine/Sequencer.lean ====
section
/-! DEFINITION. The sequencer (R33): the step tables R109, R123, R126 and R131 row by row, one step of it, and running it
until the command completes, raises, or has to wait for the far side. -/

namespace Sys2Proof.Machine

/-- What one row of a step table does. -/
inductive Action where
  | read (addr : Byte)
  | write (addr value : Byte)
  | wait
  | compute
  deriving DecidableEq, Repr

/-- `new` of `SETRATE` step 2: drop `RESTART`, force `SLEEP` (R125). -/
def sleepMode (old : Byte) : Byte := (old &&& 0x7F) ||| sleepBit

/-- The row the sequencer stands in (R109, R123, R126, R131); `none` where no table has one. -/
def Sequencer.action (q : Sequencer) : Option Action :=
  match q.op with
  | .idle => none
  | .rdch =>
    match q.step.toNat with
    | 1 => some (.read (busAddr (quad q.index).onLow))
    | 2 => some (.read (busAddr (quad q.index).onHigh))
    | 3 => some (.read (busAddr (quad q.index).offLow))
    | 4 => some (.read (busAddr (quad q.index).offHigh))
    | _ => none
  | .wrch =>
    match q.step.toNat with
    | 1 => some (.write (busAddr (quad q.index).onLow) q.d0)
    | 2 => some (.write (busAddr (quad q.index).onHigh) q.d1)
    | 3 => some (.write (busAddr (quad q.index).offLow) q.d2)
    | 4 => some (.write (busAddr (quad q.index).offHigh) q.d3)
    | _ => none
  | .setall =>
    match q.step.toNat with
    | 1 => some (.write (busAddr allLed) q.d0)
    | 2 => some (.write (busAddr (allLed + 1)) q.d1)
    | 3 => some (.write (busAddr (allLed + 2)) q.d2)
    | 4 => some (.write (busAddr (allLed + 3)) q.d3)
    | _ => none
  | .init =>
    match q.step.toNat with
    | 1 => some (.write mode2 outdrvBit)
    | 2 => some (.write mode1 allCallBit)
    | 3 => some .wait
    | 4 => some (.read mode1)
    | 5 => some (.write mode1 (q.m &&& 0xEF))
    | 6 => some .wait
    | _ => none
  | .setrate =>
    match q.step.toNat with
    | 1 => some (.read mode1)
    | 2 => some .compute
    | 3 => some (.write mode1 (sleepMode q.oldMode))
    | 4 => some (.write preScale q.d0)
    | 5 => some (.write mode1 q.oldMode)
    | 6 => some .wait
    | 7 => some (.write mode1 (q.oldMode ||| restartBit))
    | _ => none

/-- Where the byte that a read step got is held (R34, R109, R123, R126). -/
def Sequencer.latch (q : Sequencer) (b : Byte) : Sequencer :=
  match q.op with
  | .rdch =>
    match q.step.toNat with
    | 1 => { q with buf0 := b }
    | 2 => { q with buf1 := b }
    | 3 => { q with buf2 := b }
    | _ => { q with buf3 := b }
  | .init => { q with m := b }
  | .setrate => { q with oldMode := b }
  | _ => q

/-- The last step of each table (R33). -/
def SeqOp.last : SeqOp → Nat
  | .idle => 0
  | .init => 6
  | .setrate => 7
  | .rdch => 4
  | .wrch => 4
  | .setall => 4

/-- What the last step of a table does beside its own action: `RDCH` commits its four bytes (R106), `INIT` creates the
Controller (R122). -/
def State.commit (s : State) : State :=
  match s.seq.op with
  | .rdch => s.setRes (zextByte s.seq.buf0) (zextByte s.seq.buf1) (zextByte s.seq.buf2) (zextByte s.seq.buf3)
  | .init => s.setCtl true
  | _ => s

/-- One step of the sequencer: it goes on to the next row, it stops (the command ended, or the step is still under way), or
there is no such row. -/
inductive Progress where
  | running (s : State)
  | stopped (s : State)
  | noRow
  deriving DecidableEq, Repr

/-- A step that completed without error: the next step, or the end of the command (R33). -/
def State.advance (s : State) : Progress :=
  if s.seq.step.toNat = s.seq.op.last then .stopped s.commit.complete
  else .running (s.setSeq { s.seq with step := s.seq.step + 1 })

/-- A read step with its answer (R61, R163). -/
def State.gotRead (s : State) (a : Byte) : Option (Except Word32 Byte) × FarSide → Progress
  | (some (.ok b), f) => (((s.setFar f).log (.rd a b)).setSeq (s.seq.latch b)).advance
  | (some (.error e), f) => .stopped (((s.setFar f).log (.rdErr a e)).raise (.transport e))
  | (none, f) => .stopped (s.setFar f)

/-- A write step with its answer (R61, R163). -/
def State.gotWrite (s : State) (a v : Byte) : Option (Except Word32 Unit) × FarSide → Progress
  | (some (.ok ()), f) => ((s.setFar f).log (.wr a v)).advance
  | (some (.error e), f) => .stopped (((s.setFar f).log (.wrErr a v e)).raise (.transport e))
  | (none, f) => .stopped (s.setFar f)

/-- A wait step (R67, R173). -/
def State.gotWait (s : State) : Bool × FarSide → Progress
  | (true, f) => .stopped (s.setFar f)
  | (false, f) => ((s.setFar f).log (.wait Config.settleMs)).advance

/-- The sequencer performs the row it stands in. -/
def seqStep (s : State) : Progress :=
  match s.seq.action with
  | some (.read a) => s.gotRead a (s.far.read a)
  | some (.write a v) => s.gotWrite a v (s.far.write a v)
  | some .wait => s.gotWait s.far.waitGoesOn
  | some .compute => s.advance
  | none => .noRow

/-- The sequencer goes on, row after row (R11, R66), for at most the given number of rows. -/
def runSeq : Nat → State → Result
  | 0, s => .next s
  | n + 1, s =>
    match seqStep s with
    | .running t => runSeq n t
    | .stopped t => .next t
    | .noRow => .fault .noStepRow

/-- More rows than any step table has (R33: the largest step number is 7). -/
def seqFuel : Nat := 8

/-- Step 1 of a sequence with its operands (R33). -/
def Sequencer.start (op : SeqOp) (index : BitVec 4) (d0 d1 d2 d3 : Byte) : Sequencer :=
  { Sequencer.idle with op := op, step := 1, index := index, d0 := d0, d1 := d1, d2 := d2, d3 := d3 }

/-- A command's sequence starts (R33, R35), or the command is refused by a check before its first access (R165). -/
def State.begin (s : State) (r : Except Exn Sequencer) : Result :=
  match r with
  | .ok q => runSeq seqFuel ((s.setSeq q).setBusy true)
  | .error x => .next (s.raise x)

end Sys2Proof.Machine
end

