-- ==== Sys2Proof/Machine/Channel.lean ====
section
/-! DEFINITION. The channel addressing commands MKLED, CHIDX, REGOFF, ADDR, RDCH and WRCH (R102 to R107). -/

namespace Sys2Proof.Machine

/-- `MKLED slot, index` (R102). -/
def execMkled (slot : Byte) (index : Half) (s : State) : Result :=
  .next (s.settle do
    let n ← newSlot slot
    let i ← checkIndex index
    return s.setSlot n ⟨true, .led, i, 0, 0⟩)

/-- `CHIDX slot` (R103). -/
def execChidx (slot : Byte) (s : State) : Result :=
  .next (s.settle do
    let c ← useSlot s slot
    return s.setRes0 (half c.index.toNat))

/-- `REGOFF slot, base` (R104). -/
def execRegoff (slot base : Byte) (s : State) : Result :=
  .next (s.settle do
    let c ← useSlot s slot
    return s.setRes0 (half (regoff base.toNat c.index)))

/-- `ADDR slot` (R105). -/
def execAddr (slot : Byte) (s : State) : Result :=
  .next (s.settle do
    let c ← useSlot s slot
    return s.setRes (half (quad c.index).onLow) (half (quad c.index).onHigh) (half (quad c.index).offLow)
      (half (quad c.index).offHigh))

/-- `RDCH slot` (R106). -/
def execRdch (slot : Byte) (s : State) : Result :=
  s.begin do
    let c ← useSlot s slot
    return .start .rdch c.index 0 0 0 0

/-- `WRCH slot, d0, d1, d2, d3` (R107). -/
def execWrch (slot d0 d1 d2 d3 : Byte) (s : State) : Result :=
  s.begin do
    let c ← useSlot s slot
    return .start .wrch c.index d0 d1 d2 d3

end Sys2Proof.Machine
end

