-- ==== Sys2Proof/Machine/Controller.lean ====
section
/-! DEFINITION. The controller commands INIT, SETRATE, CALCPS, SETCH and SETALL (R122, R125, R128, R130, R131). -/

namespace Sys2Proof.Machine

/-- `INIT` (R122): `ctl.valid` is cleared before the first step. -/
def execInit (s : State) : Result :=
  (s.setCtl false).begin (.ok (.start .init 0 0 0 0 0))

/-- `SETRATE prescale` (R125). -/
def execSetrate (prescale : Byte) (s : State) : Result :=
  s.begin do
    requireCtl s
    return .start .setrate 0 prescale 0 0 0

/-- `p = round(OSC_FREQ / (4096 * rate)) - 1` for a positive rate (R128). -/
def prescaleOf (rate : Nat) : Int := (roundDiv Config.oscFreq (4096 * rate) : Int) - 1

/-- The 8-bit narrowing of `CALCPS` (R128). -/
def narrowPrescale : Narrow → Int → Byte
  | .wrap, p => BitVec.ofInt 8 p
  | .saturate, p => BitVec.ofInt 8 (min (max p 0) 255)

/-- `CALCPS rate` (R128). -/
def execCalcps (rate : Half) (s : State) : Result :=
  .next (s.settle
    (if rate.toInt ≤ 0 then .error .arith
     else .ok (s.setRes0 (zextByte (narrowPrescale Config.prescaleNarrow (prescaleOf rate.toInt.toNat))))))

/-- `SETCH slot, on, off` (R130): the step table of `WRCH` with the byte split of R121. -/
def execSetch (slot : Byte) (on off : Half) (s : State) : Result :=
  s.begin do
    requireCtl s
    let c ← useSlot s slot
    return .start .wrch c.index (lo on) (hi on) (lo off) (hi off)

/-- `SETALL on, off` (R131). -/
def execSetall (on off : Half) (s : State) : Result :=
  s.begin do
    requireCtl s
    return .start .setall 0 (lo on) (hi on) (lo off) (hi off)

end Sys2Proof.Machine
end

