-- ==== Sys2Proof/Machine/Servo.lean ====
section
/-! DEFINITION. The servo commands MKSERVO, D2P and P2D (R141, R143, R144). -/

namespace Sys2Proof.Machine

/-- The ServoSettings checks of `MKSERVO`, in R141's order. -/
def checkSettings (min max : Half) : Except Exn Unit :=
  if min.toNat > Config.tickMax then .error (.rangeSettings 0 Config.tickMax min.toNat)
  else if max.toNat > Config.tickMax then .error (.rangeSettings 0 Config.tickMax max.toNat)
  else if min.toNat > max.toNat then .error (.rangeSettings 0 max.toNat min.toNat)
  else .ok ()

/-- `MKSERVO slot, index, min, max` (R141). -/
def execMkservo (slot : Byte) (index min max : Half) (s : State) : Result :=
  .next (s.settle do
    let n ← newSlot slot
    let i ← checkIndex index
    checkSettings min max
    return s.setSlot n ⟨true, .servo, i, min.setWidth 12, max.setWidth 12⟩)

/-- The ticks of an angle in [-90, 90] for the range `[mn, mx]` (R143). -/
def ticksOf (mn mx : Nat) (angle : Int) : Nat := mn + (angle + 90).toNat * (mx - mn) / 180

/-- `D2P slot, angle` (R143). -/
def execD2p (slot : Byte) (angle : Half) (s : State) : Result :=
  .next (s.settle do
    let c ← servoSlot s slot
    if angle.toInt < -90 ∨ angle.toInt > 90 then throw (.rangeAngle (-90) 90 angle.toInt)
    return s.setRes0 (half (ticksOf c.minTick.toNat c.maxTick.toNat angle.toInt)))

/-- The angle of ticks in `[mn, mx]`, `mn < mx` (R144). -/
def angleOf (mn mx ticks : Nat) : Int := (roundDiv ((ticks - mn) * 180) (mx - mn) : Int) - 90

/-- `P2D slot, ticks` (R144). -/
def execP2d (slot : Byte) (ticks : Half) (s : State) : Result :=
  .next (s.settle do
    let c ← servoSlot s slot
    if ticks.toNat < c.minTick.toNat ∨ ticks.toNat > c.maxTick.toNat then
      throw (.rangeTicks c.minTick.toNat c.maxTick.toNat ticks.toNat)
    if c.maxTick.toNat - c.minTick.toNat = 0 then throw .arith
    return s.setRes0 (sext (angleOf c.minTick.toNat c.maxTick.toNat ticks.toNat)))

end Sys2Proof.Machine
end

