-- ==== Sys2Proof/Machine/Dispatch.lean ====
section
/-! DEFINITION. One arm per command (R84). -/

namespace Sys2Proof.Machine

def exec (i : Instr) (s : State) : Host.Outcome State Fault Refusal :=
  match i with
  | .mkled slot index => Sys2Proof.Machine.execMkled slot index s
  | .chidx slot => Sys2Proof.Machine.execChidx slot s
  | .regoff slot base => Sys2Proof.Machine.execRegoff slot base s
  | .addr slot => Sys2Proof.Machine.execAddr slot s
  | .rdch slot => Sys2Proof.Machine.execRdch slot s
  | .wrch slot d0 d1 d2 d3 => Sys2Proof.Machine.execWrch slot d0 d1 d2 d3 s
  | .init => Sys2Proof.Machine.execInit s
  | .setrate prescale => Sys2Proof.Machine.execSetrate prescale s
  | .calcps rate => Sys2Proof.Machine.execCalcps rate s
  | .setch slot on off => Sys2Proof.Machine.execSetch slot on off s
  | .setall on off => Sys2Proof.Machine.execSetall on off s
  | .mkservo slot index min max => Sys2Proof.Machine.execMkservo slot index min max s
  | .d2p slot angle => Sys2Proof.Machine.execD2p slot angle s
  | .p2d slot ticks => Sys2Proof.Machine.execP2d slot ticks s

end Sys2Proof.Machine
end

