-- ==== Sys2Proof/Machine/HostPort.lean ====
section
/-! DEFINITION. What the host can do to the block: present a command word (R35, R86), read a register by number
(R36, R40), apply reset (R190 to R192); and the block moving on its own. -/

namespace Sys2Proof.Machine

/-- One bit as a 1-bit vector. -/
def bit (b : Bool) : BitVec 1 := BitVec.ofBool b

/-- `kind` as its bit (R21). -/
def Kind.toBit : Kind → BitVec 1
  | .led => 0
  | .servo => 1

/-- The 32-bit layout of a slot (R40). -/
def Slot.toWord (c : Slot) : Word32 := bit c.valid ++ c.kind.toBit ++ 0#2 ++ c.index ++ c.minTick ++ c.maxTick

/-- The 32-bit layout of `STATUS` (R28, R40, 90 C12): `code` in bits 7:0, `busy` in bit 8, others 0. -/
def statusWord (busy : Bool) (code : Byte) : Word32 := 0#23 ++ bit busy ++ code

/-- The value of the register of a number while `busy` = 0 (R40); a number that names no register reads 0. -/
def regValue (s : State) (n : Nat) : Word32 :=
  match n with
  | 0 => statusWord s.busy s.code
  | 1 => 0#31 ++ bit s.ctlValid
  | 2 => 0#16 ++ s.res0
  | 3 => 0#16 ++ s.res1
  | 4 => 0#16 ++ s.res2
  | 5 => 0#16 ++ s.res3
  | 6 => s.errMin
  | 7 => s.errMax
  | 8 => s.errVal
  | 9 => s.errBus
  | n => if h : 16 ≤ n ∧ n < 16 + Config.nslot then (s.ch[n - 16]).toWord else 0

/-- The number names a register (R40). -/
def isReg (n : Nat) : Bool := decide (n ≤ 9) || (decide (16 ≤ n) && decide (n < 16 + Config.nslot))

/-- What a read returns while `busy` = 1 (R36): a free value; of number 0 only `code` is free, `busy` and the zero bits above
it are as R28 and R40 lay them out; 0 for a number that names no register (log entry 6). -/
def busyValue (s : State) (n : Nat) : Word32 :=
  if n = 0 then statusWord true ((Config.busyRead s.fresh).setWidth 8)
  else if isReg n then Config.busyRead s.fresh
  else 0

/-- The host reads register `n` (R36): the value goes to the host, the block is not changed. -/
def hostRead (n : Nat) (s : State) : State :=
  if s.busy then (s.logRead n (busyValue s n)).draw else s.logRead n (regValue s n)

/-- The far side when reset abandons a command: a write in flight has reached the chip or not (R192, a free value). -/
def abandonedFar (s : State) : FarSide :=
  match s.busy, s.seq.action with
  | true, some (.write a v) => if Config.inFlightLands s.fresh then s.far.store a v else s.far
  | _, _ => s.far

/-- Reset (R190 to R192): every block register at its reset value, no access and no event; the host and the far side stay as
they are but for a write in flight. -/
def applyReset (s : State) : State :=
  { State.reset with
    host := s.host
    readLog := s.readLog
    fresh := if s.busy then s.fresh + 1 else s.fresh
    far := abandonedFar s
    events := s.events }

/-- The host presents a command word: accepted only while `busy` = 0 (R35), refused with ILLEGAL_CMD if it is illegal
(R86), otherwise executed. -/
def present (w : CmdWord) (s : State) : Result :=
  if s.busy then .next s
  else
    match decode w with
    | .ok i => exec i s
    | .error _ => .next (s.raise .illegalCmd)

/-- The block moves: a running command goes on with the step it stands in, an idle block waits (R35, R190). -/
def proceed (s : State) : Result :=
  if s.busy then runSeq seqFuel s else .next s

end Sys2Proof.Machine
end

