-- ==== Sys2Proof/Machine/Step.lean ====
section
/-! DEFINITION. One step of the machine: the head of the host's list says which agent moves. -/

namespace Sys2Proof.Machine

/-- One step: the host's next action, or, where it passes or has none left, a move of the block. -/
def step (s : State) : Host.Outcome State Fault Refusal :=
  match s.host with
  | [] => proceed s
  | .pass :: h => proceed (s.setHost h)
  | .command w :: h => present w (s.setHost h)
  | .read n :: h => .next (hostRead n (s.setHost h))
  | .reset :: h => .next (applyReset (s.setHost h))

/-- The word is the host's next action, and the block is free to accept it (log entry 2). -/
def State.withFetchWord (s : State) (nbits w : Nat) : State :=
  if s.busy then (s.toIdle).setHost (.command (tableWord nbits w) :: s.host)
  else s.setHost (.command (tableWord nbits w) :: s.host)

end Sys2Proof.Machine
end

