-- ==== Sys2Proof/Machine/Pseudo.lean ====
section
/-! DEFINITION. The result registers a pseudo-instruction names (R90). -/

namespace Sys2Proof.Machine

/-- The values a pseudo-instruction gives, read after its command has completed (R90). -/
def pseudoResult (p : Pseudo) (t : State) : List Half :=
  match p with
  | .onlow _ => [t.res0]
  | .onhigh _ => [t.res1]
  | .offlow _ => [t.res2]
  | .offhigh _ => [t.res3]
  | .onaddrs _ => [t.res0, t.res1]
  | .offaddrs _ => [t.res2, t.res3]
  | .baseaddr _ => [t.res0]
  | .mkservoD _ _ => []

end Sys2Proof.Machine
end

