-- ==== Sys2Proof/Safety.lean ====
section
/-! DEFINITION. The terms in which statements speak of a safe run: the invariant of the machine, the addresses and codes a
command may produce, the shape of its trace, and the early-RESTART hazard. -/

namespace Sys2Proof.Machine

/-- R21, R22, R23 for one slot: a slot never written is empty, a LedChannel carries no settings, a ServoChannel's settings
are in order. (R22a and the 12-bit bound are the fields' widths.) -/
abbrev Slot.Sound (c : Slot) : Prop :=
  (c.valid = false → c = Slot.empty) ∧
  (c.kind = .led → c.minTick = 0 ∧ c.maxTick = 0) ∧
  (c.kind = .servo → c.minTick.toNat ≤ c.maxTick.toNat)

/-- R33, R35 and R31, R120: busy exactly in a row of a step table; no Controller while `INIT` runs, a Controller while
`SETRATE` or `SETALL` runs. -/
abbrev State.SequencerSound (s : State) : Prop :=
  (s.busy = true → s.seq.action.isSome = true) ∧
  (s.busy = false → s.seq = Sequencer.idle) ∧
  (s.seq.op = .init → s.ctlValid = false) ∧
  (s.seq.op = .setrate ∨ s.seq.op = .setall → s.ctlValid = true)

/-- The invariant: sound slots, sound sequencer, a code of R161, and the canonical form of the store. -/
abbrev State.Inv (s : State) : Prop :=
  (∀ n : Fin Config.nslot, s.ch[n].Sound) ∧ s.SequencerSound ∧ s.code.toNat ≤ 10 ∧ Memory.wf s.far.creg = true

/-- A move of the block: it executes a command it has accepted, or it goes on with the one under way (R33, R35). -/
def State.Moves (s t : State) : Prop := (∃ i : Instr, exec i s = .next t) ∨ (s.busy = true ∧ proceed s = .next t)

/-- Two states agree on all that a command reads: the slots, `ctl.valid` and the far side. -/
def State.SameInputs (s s' : State) : Prop := s.ch = s'.ch ∧ s.ctlValid = s'.ctlValid ∧ s.far = s'.far

/-- In two moves, from `s` to `t` and from `s'` to `t'`, what `f` shows is left unchanged in both, or is equal after both. -/
def SameOrKept {α : Type} (f : State → α) (s s' t t' : State) : Prop := (f t = f s ∧ f t' = f s') ∨ f t = f t'

/-- Two moves have the same effect: the same slots, `ctl.valid`, far side, sequencer and `busy`; the same accesses; the same
code where the command ended; and in each result and error register the same value, or none written. -/
def SameEffect (s s' t t' : State) : Prop :=
  t.SameInputs t' ∧ t.seq = t'.seq ∧ t.busy = t'.busy ∧ (t.busy = false → t.code = t'.code) ∧
    SameOrKept State.code s s' t t' ∧
    SameOrKept State.res0 s s' t t' ∧ SameOrKept State.res1 s s' t t' ∧
    SameOrKept State.res2 s s' t t' ∧ SameOrKept State.res3 s s' t t' ∧
    SameOrKept State.errMin s s' t t' ∧ SameOrKept State.errMax s s' t t' ∧
    SameOrKept State.errVal s s' t t' ∧ SameOrKept State.errBus s s' t t' ∧
    ∃ evs, t.events = s.events ++ evs ∧ t'.events = s'.events ++ evs

/-- The same far side without the late answers of its script. -/
def FarSide.hurried (f : FarSide) : FarSide := { f with script := f.script.filter (· ≠ .later) }

/-- The same state with a far side whose script has no late answer. -/
def State.hurried (s : State) : State := { s with far := s.far.hurried }

/-- A command ends with this status code, with nothing else changed: the shape of every usage fault (R164, R166). -/
def State.ended (s : State) (code : Byte) : State :=
  { s with code := code, seq := Sequencer.idle, busy := false }

/-- A command ends with a RangeError: code and the three error registers (R162, R166). -/
def State.endedRange (s : State) (code : Byte) (mn mx v : Int) : State :=
  { s with
    code := code
    errMin := BitVec.ofInt 32 mn
    errMax := BitVec.ofInt 32 mx
    errVal := BitVec.ofInt 32 v
    seq := Sequencer.idle
    busy := false }

/-- The slot a command names is valid (R101). -/
def State.HasSlot (s : State) (slot : Byte) (c : Slot) : Prop :=
  slot.toNat < Config.nslot ∧ s.ch[slot.toNat]? = some c ∧ c.valid = true

/-- The far side answers these accesses, in this order and before anything else, as these events record (R61), each at once,
and is then `g`. -/
def FarSide.Serves : FarSide → List Event → FarSide → Prop
  | f, [], g => f = g
  | f, .rd a b :: es, g => ∃ h, f.read a = (some (.ok b), h) ∧ h.Serves es g
  | f, .rdErr a e :: es, g => ∃ h, f.read a = (some (.error e), h) ∧ h.Serves es g
  | f, .wr a v :: es, g => ∃ h, f.write a v = (some (.ok ()), h) ∧ h.Serves es g
  | f, .wrErr a v e :: es, g => ∃ h, f.write a v = (some (.error e), h) ∧ h.Serves es g
  | f, .wait _ :: es, g => ∃ h, f.waitGoesOn = (false, h) ∧ h.Serves es g

/-- The event of the same access where it fails with `e`; a wait cannot fail (R123, R126). -/
def Event.failing : Event → Word32 → Option Event
  | .rd a _, e => some (.rdErr a e)
  | .wr a v, e => some (.wrErr a v e)
  | .rdErr _ _, _ => none
  | .wrErr _ _ _, _ => none
  | .wait _, _ => none

/-- `evs` is the trace `full` cut off at an access that fails with `e` (R163, R166a). -/
def CutOff (full : List Event) (e : Word32) (evs : List Event) : Prop :=
  ∃ done ev rest bad, full = done ++ ev :: rest ∧ ev.failing e = some bad ∧ evs = done ++ [bad]

/-- A command ends with a TransportError (R163, R166): code, `ERRBUS`, the far side and the record of events. -/
def State.endedTransport (s : State) (e : Word32) (f : FarSide) (evs : List Event) : State :=
  { s with
    code := 5
    errBus := e
    seq := Sequencer.idle
    busy := false
    far := f
    events := s.events ++ evs }

/-- The trace of a whole `RDCH` of channel `i` that reads these bytes (R106). -/
def rdchTrace (i : BitVec 4) (b0 b1 b2 b3 : Byte) : List Event :=
  [.rd (BitVec.ofNat 8 (0x06 + 4 * i.toNat)) b0, .rd (BitVec.ofNat 8 (0x07 + 4 * i.toNat)) b1,
   .rd (BitVec.ofNat 8 (0x08 + 4 * i.toNat)) b2, .rd (BitVec.ofNat 8 (0x09 + 4 * i.toNat)) b3]

/-- The trace of a whole channel write (R107, R130). -/
def wrchTrace (i : BitVec 4) (d0 d1 d2 d3 : Byte) : List Event :=
  [.wr (BitVec.ofNat 8 (0x06 + 4 * i.toNat)) d0, .wr (BitVec.ofNat 8 (0x07 + 4 * i.toNat)) d1,
   .wr (BitVec.ofNat 8 (0x08 + 4 * i.toNat)) d2, .wr (BitVec.ofNat 8 (0x09 + 4 * i.toNat)) d3]

/-- A command that only writes to the bus ended with OK after this trace. -/
def State.endedWrites (s : State) (f : FarSide) (evs : List Event) : State :=
  { s with
    code := 0
    seq := Sequencer.idle
    busy := false
    far := f
    events := s.events ++ evs }

/-- The trace of a whole `INIT` whose read answers `m` (R122). -/
def initTrace (m : Byte) : List Event :=
  [.wr 0x01 0x04, .wr 0x00 0x01, .wait 5, .rd 0x00 m, .wr 0x00 (m &&& 0xEF), .wait 5]

/-- The trace of a whole `SETRATE` whose read answers `old` (R125). -/
def setrateTrace (prescale old : Byte) : List Event :=
  [.rd 0x00 old, .wr 0x00 ((old &&& 0x7F) ||| 0x10), .wr 0xFE prescale, .wr 0x00 old, .wait 5, .wr 0x00 (old ||| 0x80)]

/-- The trace of a whole `SETCH` of channel `i`: the byte split of R121, low byte first (R130). -/
def setchTrace (i : BitVec 4) (on off : Half) : List Event :=
  wrchTrace i (on.extractLsb' 0 8) (on.extractLsb' 8 8) (off.extractLsb' 0 8) (off.extractLsb' 8 8)

/-- The trace of a whole `SETALL` (R131). -/
def setallTrace (on off : Half) : List Event :=
  [.wr 0xFA (on.extractLsb' 0 8), .wr 0xFB (on.extractLsb' 8 8), .wr 0xFC (off.extractLsb' 0 8),
   .wr 0xFD (off.extractLsb' 8 8)]

/-- What every command leaves to the host: its pending actions, what it has read, the counter of free values. -/
def State.SameSurroundings (s t : State) : Prop :=
  t.host = s.host ∧ t.readLog = s.readLog ∧ t.fresh = s.fresh

/-- Every byte of the store reads as before, except at these addresses. -/
def State.SameStoreBut (s t : State) (written : List Byte) : Prop :=
  ∀ a : Byte, a ∉ written → Memory.read t.far.creg a = Memory.read s.far.creg a

/-- A command that reads this slot is refused with `BadSlot`: out of range, or not valid (R101). -/
def State.NoSlot (s : State) (slot : Byte) : Prop :=
  Config.nslot ≤ slot.toNat ∨ ∃ c, s.ch[slot.toNat]? = some c ∧ c.valid = false

/-- Where the block reads (R70). -/
def mayRead (a : Byte) : Bool := a == 0x00 || (decide (0x06 ≤ a.toNat) && decide (a.toNat ≤ 0x45))

/-- Where the block writes (R70). -/
def mayWrite (a : Byte) : Bool :=
  a == 0x00 || a == 0x01 || (decide (0x06 ≤ a.toNat) && decide (a.toNat ≤ 0x45)) ||
    (decide (0xFA ≤ a.toNat) && decide (a.toNat ≤ 0xFE))

/-- An event at an address the block may issue (R70). -/
def Event.allowed : Event → Bool
  | .rd a _ => mayRead a
  | .rdErr a _ => mayRead a
  | .wr a _ => mayWrite a
  | .wrErr a _ _ => mayWrite a
  | .wait _ => true

/-- The error value of a failed access (R61). -/
def Event.error : Event → Option Word32
  | .rdErr _ e => some e
  | .wrErr _ _ e => some e
  | .rd _ _ => none
  | .wr _ _ => none
  | .wait _ => none

/-- What kind of event it is, without values: a read of, or a write to, an address, or a wait. -/
inductive Access where
  | r (a : Byte)
  | w (a : Byte)
  | wait
  deriving DecidableEq, Repr

/-- The access an event records, failed or not (R61). -/
def Event.access : Event → Access
  | .rd a _ => .r a
  | .rdErr a _ => .r a
  | .wr a _ => .w a
  | .wrErr a _ _ => .w a
  | .wait _ => .wait

/-- The accesses of a whole `INIT` (R123). -/
def initShape : List Access := [.w 0x01, .w 0x00, .wait, .r 0x00, .w 0x00, .wait]

/-- The accesses of a whole `SETRATE` (R126). -/
def setrateShape : List Access := [.r 0x00, .w 0x00, .w 0xFE, .w 0x00, .wait, .w 0x00]

/-- The accesses of `INIT` from row `k` of its table on (R123). -/
def initFrom (k : Nat) : List Access := initShape.drop (k - 1)

/-- The accesses of `SETRATE` from row `k` of its table on (R126: row 2 computes and has no access). -/
def setrateFrom (k : Nat) : List Access := setrateShape.drop (if k ≤ 2 then k - 1 else k - 2)

/-- The accesses of the move from `s` to `t` are those of a table from row `k` on, in order and none left out: all of them
where the command ended with OK, all up to the row the block stands in where it still waits, the first of them where it
failed. -/
def State.Follows (s t : State) (table : Nat → List Access) (k : Nat) : Prop :=
  ∃ evs, t.events = s.events ++ evs ∧ evs.map Event.access <+: table k ∧
    (t.busy = true → evs.map Event.access ++ table t.seq.step.toNat = table k) ∧
    (t.busy = false → t.code = 0 → evs.map Event.access = table k)

/-- The codes a command can end with once its sequence runs, its checks passed (R165, R170): OK or TRANSPORT. -/
def SeqOp.mayReport : SeqOp → List Byte
  | .idle => []
  | .init => [0, 5]
  | .setrate => [0, 5]
  | .rdch => [0, 5]
  | .wrch => [0, 5]
  | .setall => [0, 5]

/-- The codes a legal command can end with (R170). -/
def mayReport : Instr → List Byte
  | .mkled _ _ => [0, 8, 1]
  | .chidx _ => [0, 8]
  | .regoff _ _ => [0, 8]
  | .addr _ => [0, 8]
  | .rdch _ => [0, 8, 5]
  | .wrch _ _ _ _ _ => [0, 8, 5]
  | .init => [0, 5]
  | .setrate _ => [0, 7, 5]
  | .calcps _ => [0, 6]
  | .setch _ _ _ => [0, 7, 8, 5]
  | .setall _ _ => [0, 7, 5]
  | .mkservo _ _ _ _ => [0, 8, 1, 4]
  | .d2p _ _ => [0, 8, 9, 2]
  | .p2d _ _ => [0, 8, 9, 3, 6]

/-- The far side answers at once: no answer of the script comes late, and the reference chip answers after it. -/
def FarSide.Prompt (f : FarSide) : Prop := BusAnswer.later ∉ f.script ∧ f.rest = .chip

/-- The far side is the reference chip of R60 and nothing else. -/
def FarSide.IsChip (f : FarSide) : Prop := f.script = [] ∧ f.rest = .chip

/-- The hazard of R196, R198 (U1): `MODE_1` is written with `RESTART` set after it was written with `SLEEP` set and before
a wait. The first argument says whether such a write has happened since the last wait. -/
def earlyRestart : Bool → List Event → Bool
  | _, [] => false
  | asleep, .wr a v :: es =>
    if a = mode1 then (asleep && v.getLsbD 7) || earlyRestart (asleep || v.getLsbD 4) es else earlyRestart asleep es
  | _, .wait _ :: es => earlyRestart false es
  | asleep, .rd _ _ :: es => earlyRestart asleep es
  | asleep, .rdErr _ _ :: es => earlyRestart asleep es
  | asleep, .wrErr _ _ _ :: es => earlyRestart asleep es

end Sys2Proof.Machine
end

