-- ==== Sys2Proof/Certificates/Slice0/Obligations.lean ====
section
/-! DEFINITION. The statements for the provers: what the numbered rules of spec/ say the machine does. -/

open Sys2Proof Sys2Proof.Machine

/-! ## Decoding and the host port -/

/-- R35, R88: a word the idle block is given, if it decodes, is executed, and nothing else happens in that step; the word
`withFetchWord` places is the one the next step runs; where the host does nothing, the block moves (log entry 2). -/
def Obligations.StepRunsDecodedCommand : Prop :=
  (∀ (s : State) (w : CmdWord) (h : List HostAct) (i : Instr),
    s.busy = false → s.host = .command w :: h → decode w = .ok i → step s = exec i { s with host := h }) ∧
  (∀ (s : State) (i : Instr), s.busy = false → step (s.withFetchWord 64 (encode i).toNat) = exec i s) ∧
  (∀ s : State, s.host = [] → step s = proceed s) ∧
  (∀ (s : State) (h : List HostAct), s.host = .pass :: h → step s = proceed { s with host := h }) ∧
  (∀ s : State, s.busy = false → proceed s = .next s)

/-- R85: a word is the command of a row exactly when `w & mask = match`; so the decoder names that row, and refuses every
word that matches none. -/
def Obligations.DecodeNamesTheMatchingRow : Prop :=
  ∀ w : CmdWord, (decode w).toOption.map Instr.mnemonic = rowOf w

/-- R84, R85: decoding an encoded command gives it back, with every operand at every value. -/
def Obligations.DecodeOfEncode : Prop :=
  ∀ i : Instr, decode (encode i) = .ok i

/-- R81, R83: a word that decodes is the encoding of what it decodes to: no bit of it is dropped. -/
def Obligations.EncodeOfDecode : Prop :=
  ∀ (w : CmdWord) (i : Instr), decode w = .ok i → encode i = w

/-- R92: the two worked encodings; and one word of R89 per family. -/
def Obligations.WorkedEncodingsDecode : Prop :=
  decode 0x3002000F00960258 = .ok (.mkservo 2 15 150 600) ∧
  decode 0x3102FFD300000000 = .ok (.d2p 2 (BitVec.ofInt 16 (-45))) ∧
  decode 0x1500019904CC0000 = .ok (.wrch 0 0x99 0x01 0xCC 0x04) ∧
  decode 0x2100001E00000000 = .ok (.setrate 0x1E) ∧
  decode 0x320007FF00000000 = .ok (.p2d 0 2047)

/-- R86: a word that matches no row executes nothing and completes with `ILLEGAL_CMD`. -/
def Obligations.IllegalWordOnlySetsStatus : Prop :=
  ∀ (s : State) (w : CmdWord) (h : List HostAct),
    s.busy = false → s.host = .command w :: h → wellFormedWord w = false →
    step s = .next (({ s with host := h } : State).ended 10)

/-- R35: a command presented while `busy` = 1 is not accepted and has no effect. -/
def Obligations.BusyBlockIgnoresCommand : Prop :=
  ∀ (s : State) (w : CmdWord) (h : List HostAct),
    s.busy = true → s.host = .command w :: h → step s = .next { s with host := h }

/-- R36, R40: a read while `busy` = 0 returns the register's value in its layout and has no side effect. -/
def Obligations.IdleReadReturnsRegister : Prop :=
  ∀ (s : State) (n : Nat) (h : List HostAct), s.busy = false → s.host = .read n :: h →
    ∃ v : Word32, step s = .next { s with host := h, readLog := s.readLog ++ [(n, v)] } ∧
      (n = 0 → v = BitVec.setWidth 32 s.code) ∧
      (n = 1 → v = if s.ctlValid then 1 else 0) ∧
      (n = 2 → v = BitVec.setWidth 32 s.res0) ∧
      (n = 3 → v = BitVec.setWidth 32 s.res1) ∧
      (n = 4 → v = BitVec.setWidth 32 s.res2) ∧
      (n = 5 → v = BitVec.setWidth 32 s.res3) ∧
      (n = 6 → v = s.errMin) ∧
      (n = 7 → v = s.errMax) ∧
      (n = 8 → v = s.errVal) ∧
      (n = 9 → v = s.errBus) ∧
      (∀ k : Fin 16, n = 16 + k.val →
        v.getLsbD 31 = s.ch[k].valid ∧ (v.getLsbD 30 = true ↔ s.ch[k].kind = .servo) ∧
        v.extractLsb' 28 2 = 0 ∧ v.extractLsb' 24 4 = s.ch[k].index ∧
        v.extractLsb' 12 12 = s.ch[k].minTick ∧ v.extractLsb' 0 12 = s.ch[k].maxTick) ∧
      (10 ≤ n ∧ n ≤ 15 ∨ 32 ≤ n → v = 0)

/-- R28, R36, R40 (C12), log entry 6: a read while `busy` = 1 changes nothing of the block, the far side or the record of
events; of `STATUS` it shows `busy` in bit 8 and zeros above it; a number that names no register reads 0. -/
def Obligations.BusyReadShowsBusy : Prop :=
  ∀ (s : State) (n : Nat) (h : List HostAct), s.busy = true → s.host = .read n :: h →
    ∃ v : Word32, step s = .next { s with host := h, readLog := s.readLog ++ [(n, v)], fresh := s.fresh + 1 } ∧
      (n = 0 → v.getLsbD 8 = true ∧ v.extractLsb' 9 23 = 0) ∧ (10 ≤ n ∧ n ≤ 15 ∨ 32 ≤ n → v = 0)

/-! ## Reset -/

/-- R38: the values the spec gives for reset. -/
def Obligations.ResetGivesStatedValues : Prop :=
  (∀ k : Fin 16, State.reset.ch[k] = ⟨false, .led, 0, 0, 0⟩) ∧ State.reset.code = 0 ∧
    State.reset.ctlValid = false ∧ State.reset.seq.op = .idle ∧ State.reset.seq.step = 0 ∧ State.reset.busy = false

/-- R190, R191: reset puts every register to its stated value and issues no bus access and no wait; the chip keeps its
state (of a busy block, see `ResetWhileBusyAbandons`). -/
def Obligations.ResetTouchesNoBus : Prop :=
  ∀ (s : State) (h : List HostAct), s.host = .reset :: h →
    ∃ t, step s = .next t ∧ (∀ k : Fin 16, t.ch[k] = ⟨false, .led, 0, 0, 0⟩) ∧ t.code = 0 ∧ t.ctlValid = false ∧
      t.seq.op = .idle ∧ t.seq.step = 0 ∧ t.busy = false ∧ t.events = s.events ∧ t.host = h ∧
      (s.busy = false → t.far = s.far)

/-- R192: reset of a busy block abandons the command; no access of it is issued any more, and a write in flight has
reached the chip or has not (free value, log entry 7). -/
def Obligations.ResetWhileBusyAbandons : Prop :=
  ∀ (s : State) (h : List HostAct), s.busy = true → s.host = .reset :: h →
    ∃ t, step s = .next t ∧ t.busy = false ∧ t.seq.op = .idle ∧ t.events = s.events ∧
      t.far.script = s.far.script ∧ t.far.rest = s.far.rest ∧
      (t.far.creg = s.far.creg ∨
        ∃ a v, s.seq.action = some (.write a v) ∧ t.far.creg = Memory.write s.far.creg a v)

/-! ## The invariant -/

/-- The invariant holds after reset. -/
def Obligations.ResetMeetsInvariant : Prop := State.reset.Inv

/-- R22, R31, R33, R35, R161: every step keeps the invariant, from any state that has it. -/
def Obligations.StepKeepsInvariant : Prop :=
  ∀ s t : State, s.Inv → step s = .next t → t.Inv

/-- Nothing stops the machine: a command answers a next state in every state, and a state that has the invariant always
has a next state; no fault and no refusal. -/
def Obligations.NothingStopsTheMachine : Prop :=
  (∀ (i : Instr) (s : State), ∃ t, exec i s = .next t) ∧ (∀ s : State, s.Inv → ∃ t, step s = .next t)

/-! ## Whole-machine rules -/

/-- R23: a slot changes only as a whole, only by a successful `MKLED` or `MKSERVO` naming it, and by reset. -/
def Obligations.SlotsChangeOnlyByConstructors : Prop :=
  ∀ (s t : State) (k : Fin 16), step s = .next t → t.ch[k] ≠ s.ch[k] →
    (∃ h, s.host = .reset :: h ∧ t.ch[k] = ⟨false, .led, 0, 0, 0⟩) ∨
    ∃ w h slot index, s.host = .command w :: h ∧ s.busy = false ∧ slot.toNat = k.val ∧ t.code = 0 ∧
      (decode w = .ok (.mkled slot index) ∧ t.ch[k] = ⟨true, .led, index.extractLsb' 0 4, 0, 0⟩ ∨
       ∃ mn mx, decode w = .ok (.mkservo slot index mn mx) ∧
        t.ch[k] = ⟨true, .servo, index.extractLsb' 0 4, mn.extractLsb' 0 12, mx.extractLsb' 0 12⟩)

/-- R133: only `INIT` and reset change `ctl.valid`. -/
def Obligations.ControllerChangesOnlyByInit : Prop :=
  ∀ s t : State, step s = .next t → t.ctlValid ≠ s.ctlValid →
    (∃ h, s.host = .reset :: h) ∨ (s.busy = true ∧ s.seq.op = .init) ∨
      (s.busy = false ∧ ∃ w h, s.host = .command w :: h ∧ decode w = .ok .init)

/-- R70: every read and write the block issues is at an address of the rule's lists. -/
def Obligations.AccessesStayInRegisterMap : Prop :=
  ∀ s t : State, step s = .next t →
    ∃ evs, t.events = s.events ++ evs ∧ ∀ ev ∈ evs, ev.allowed = true

/-- R165, R170: a command ends only with a code of its row, in the step it is accepted in or in a later move: while it is
under way it stays in its sequence, which fixes the codes it can still end with. -/
def Obligations.CommandReportsItsCodes : Prop :=
  (∀ (i : Instr) (s t : State), exec i s = .next t →
    (t.busy = false → t.code ∈ mayReport i) ∧
    (t.busy = true → t.seq.op ≠ .idle ∧ ∀ code ∈ t.seq.op.mayReport, code ∈ mayReport i)) ∧
  (∀ s t : State, s.busy = true → proceed s = .next t →
    (t.busy = false → t.code ∈ s.seq.op.mayReport) ∧ (t.busy = true → t.seq.op = s.seq.op))

/-- R27: a command that ends with a code other than OK writes no result register (and no slot, R23), whether it ends in
the step it was accepted in or later. -/
def Obligations.FailedCommandWritesNoResult : Prop :=
  ∀ s t : State, s.Moves t → t.busy = false → t.code ≠ 0 →
    t.res0 = s.res0 ∧ t.res1 = s.res1 ∧ t.res2 = s.res2 ∧ t.res3 = s.res3 ∧ t.ch = s.ch

/-- R165: a command that fails one of the checks before the first access has an empty trace and reaches no register of the
chip. -/
def Obligations.RefusedCommandHasEmptyTrace : Prop :=
  ∀ (i : Instr) (s t : State), exec i s = .next t → t.busy = false → t.code ≠ 0 → t.code ≠ 5 →
    t.events = s.events ∧ t.far = s.far ∧ t.ctlValid = s.ctlValid

/-- R29, R30: `ERRMIN`, `ERRMAX`, `ERRVAL` are written only with a RangeError, `ERRBUS` only with a TransportError. -/
def Obligations.ErrorRegistersFollowTheirClass : Prop :=
  ∀ s t : State, s.Moves t →
    ((t.errMin, t.errMax, t.errVal) ≠ (s.errMin, s.errMax, s.errVal) → t.code.toNat ∈ [1, 2, 3, 4]) ∧
    (t.errBus ≠ s.errBus → t.code = 5)

/-- R163, R166: `TRANSPORT` is reported exactly when an access failed, and that access is the command's last event, its
error value in `ERRBUS` unchanged. -/
def Obligations.FirstFailureEndsCommand : Prop :=
  ∀ s t : State, s.Moves t → t.busy = false →
    ∃ evs, t.events = s.events ++ evs ∧
      ((t.code ≠ 5 ∧ ∀ ev ∈ evs, ev.error = none) ∨
       (t.code = 5 ∧ ∃ done last, evs = done ++ [last] ∧ last.error = some t.errBus ∧ ∀ ev ∈ done, ev.error = none))

/-- R28, R34, R35: a command that still waits for the far side has written no result, slot, status or error register, and
none of its accesses has failed. -/
def Obligations.WaitingCommandHasWrittenNothing : Prop :=
  ∀ s t : State, s.Moves t → t.busy = true →
    t.res0 = s.res0 ∧ t.res1 = s.res1 ∧ t.res2 = s.res2 ∧ t.res3 = s.res3 ∧ t.ch = s.ch ∧ t.code = s.code ∧
      t.errMin = s.errMin ∧ t.errMax = s.errMax ∧ t.errVal = s.errVal ∧ t.errBus = s.errBus ∧
      ∃ evs, t.events = s.events ++ evs ∧ ∀ ev ∈ evs, ev.error = none

/-- R25, R34, R37: no command reads a result register, the status, an error register or what an earlier command left in the
sequencer. Two states that agree on the slots, `ctl.valid` and the far side give the same accesses and the same end, and
each result and error register is left unchanged in both runs or equal after both; so do two blocks that agree on the
sequencer too and go on with the command under way. -/
def Obligations.RegistersNeverFeedBack : Prop :=
  (∀ (i : Instr) (s s' t t' : State), s.SameInputs s' → exec i s = .next t → exec i s' = .next t' →
    SameEffect s s' t t') ∧
  (∀ s s' t t' : State, s.SameInputs s' → s.busy = true → s'.busy = true → s.seq = s'.seq →
    proceed s = .next t → proceed s' = .next t' → SameEffect s s' t t')

/-- R35, log entry 11: an accepted command runs to completion or to its first raise, if the far side answers its accesses; so
does a command under way, in its next move. That one move suffices is the model's choice of how much a move does (log
entry 11). -/
def Obligations.PromptFarSideEndsCommand : Prop :=
  (∀ (i : Instr) (s : State), s.far.Prompt → ∃ t, exec i s = .next t ∧ t.busy = false) ∧
  (∀ s : State, s.Inv → s.busy = true → s.host = [] → s.far.Prompt → ∃ t, step s = .next t ∧ t.busy = false)

/-- R72: an access that is never answered leaves the block in that step, busy, for ever. -/
def Obligations.UnansweredAccessHangs : Prop :=
  ∀ s : State, s.busy = true → s.host = [] → s.far.script = [] → s.far.rest = .silent →
    ((∃ a, s.seq.action = some (.read a)) ∨ ∃ a v, s.seq.action = some (.write a v)) → step s = .next s

/-- R11, R66, log entry 11: while the step under way takes longer, nothing changes; it then goes on from where it stood. -/
def Obligations.LateAnswerChangesNothing : Prop :=
  ∀ (s : State) (as : List BusAnswer) (act : Action), s.busy = true → s.host = [] → s.far.script = .later :: as →
    s.seq.action = some act → act ≠ .compute → step s = .next { s with far := { s.far with script := as } }

/-- R11, R66, log entry 11: late answers change no outcome. A command whose accesses and waits are answered late comes, after
some more moves of the block, to the state it comes to where nothing of the script is late, whoever answers after the
script. -/
def Obligations.LateAnswersChangeNoOutcome : Prop :=
  ∀ (i : Instr) (s : State), s.host = [] →
    ∃ (n : Nat) (t u : State), exec i s = .next t ∧ core.run n t = .next u ∧ exec i s.hurried = .next u.hurried

/-! ## Channel addressing -/

/-- R102: `MKLED` writes the whole slot, or refuses a slot above 15, then an index above 15. -/
def Obligations.MkledResult : Prop :=
  ∀ (s : State) (slot : Byte) (index : Half),
    decode (packWord 0x10 slot index 0 0) = .ok (.mkled slot index) ∧
    (∀ _hs : slot.toNat < 16, index.toNat ≤ 15 → exec (.mkled slot index) s = .next
      { s with
        ch := s.ch.set slot.toNat ⟨true, .led, index.extractLsb' 0 4, 0, 0⟩
        code := 0
        seq := Sequencer.idle
        busy := false }) ∧
    (slot.toNat < 16 → 15 < index.toNat → exec (.mkled slot index) s = .next (s.endedRange 1 0 15 index.toNat)) ∧
    (16 ≤ slot.toNat → exec (.mkled slot index) s = .next (s.ended 8))

/-- R103: `CHIDX` gives the slot's channel index. -/
def Obligations.ChidxResult : Prop :=
  ∀ (s : State) (slot : Byte),
    decode (packWord 0x11 slot 0 0 0) = .ok (.chidx slot) ∧
    (∀ c, s.HasSlot slot c → exec (.chidx slot) s = .next
      { s with res0 := c.index.setWidth 16, code := 0, seq := Sequencer.idle, busy := false }) ∧
    (s.NoSlot slot → exec (.chidx slot) s = .next (s.ended 8))

/-- R104: `REGOFF` gives the exact sum of the base and four times the index. -/
def Obligations.RegoffResult : Prop :=
  ∀ (s : State) (slot base : Byte),
    decode (packWord 0x12 slot (0#8 ++ base) 0 0) = .ok (.regoff slot base) ∧
    (∀ c, s.HasSlot slot c → ∃ v : Half, v.toNat = base.toNat + 4 * c.index.toNat ∧
      exec (.regoff slot base) s = .next { s with res0 := v, code := 0, seq := Sequencer.idle, busy := false }) ∧
    (s.NoSlot slot → exec (.regoff slot base) s = .next (s.ended 8))

/-- R105: `ADDR` gives the four register addresses of the slot's channel. -/
def Obligations.AddrResult : Prop :=
  ∀ (s : State) (slot : Byte),
    decode (packWord 0x13 slot 0 0 0) = .ok (.addr slot) ∧
    (∀ c, s.HasSlot slot c → ∃ a0 a1 a2 a3 : Half, a0.toNat = 0x06 + 4 * c.index.toNat ∧ a1.toNat = 0x07 + 4 * c.index.toNat ∧
      a2.toNat = 0x08 + 4 * c.index.toNat ∧ a3.toNat = 0x09 + 4 * c.index.toNat ∧
      exec (.addr slot) s = .next
        { s with
          res0 := a0
          res1 := a1
          res2 := a2
          res3 := a3
          code := 0
          seq := Sequencer.idle
          busy := false }) ∧
    (s.NoSlot slot → exec (.addr slot) s = .next (s.ended 8))

/-- R90: a derived address name is a projection of `ADDR`; `MKSERVO.D` is `MKSERVO` with the default settings. -/
def Obligations.PseudoInstructionsExpand : Prop :=
  (∀ (s : State) (slot : Byte) (c : Slot), s.HasSlot slot c → ∃ t, exec (.addr slot) s = .next t ∧
    pseudoResult (.onlow slot) t = [BitVec.ofNat 16 (0x06 + 4 * c.index.toNat)] ∧
    pseudoResult (.onhigh slot) t = [BitVec.ofNat 16 (0x07 + 4 * c.index.toNat)] ∧
    pseudoResult (.offlow slot) t = [BitVec.ofNat 16 (0x08 + 4 * c.index.toNat)] ∧
    pseudoResult (.offhigh slot) t = [BitVec.ofNat 16 (0x09 + 4 * c.index.toNat)] ∧
    pseudoResult (.onaddrs slot) t = pseudoResult (.onlow slot) t ++ pseudoResult (.onhigh slot) t ∧
    pseudoResult (.offaddrs slot) t = pseudoResult (.offlow slot) t ++ pseudoResult (.offhigh slot) t ∧
    pseudoResult (.baseaddr slot) t = pseudoResult (.onlow slot) t) ∧
  (∀ slot : Byte, ∀ p ∈ [Pseudo.onlow slot, .onhigh slot, .offlow slot, .offhigh slot, .onaddrs slot, .offaddrs slot,
    .baseaddr slot], p.expand = .addr slot) ∧
  (∀ (slot : Byte) (index : Half), (Pseudo.mkservoD slot index).expand = .mkservo slot index 0 4095)

/-- R106: `RDCH` reads the four registers in rising order and gives their bytes; at the first read that fails it ends with
`TRANSPORT` and gives nothing. -/
def Obligations.RdchResult : Prop :=
  ∀ (s : State) (slot : Byte) (c : Slot) (b0 b1 b2 b3 : Byte) (f : FarSide),
    decode (packWord 0x14 slot 0 0 0) = .ok (.rdch slot) ∧
    (s.HasSlot slot c → s.far.Serves (rdchTrace c.index b0 b1 b2 b3) f → exec (.rdch slot) s = .next
      { s with
        res0 := b0.setWidth 16
        res1 := b1.setWidth 16
        res2 := b2.setWidth 16
        res3 := b3.setWidth 16
        code := 0
        seq := Sequencer.idle
        busy := false
        far := f
        events := s.events ++ rdchTrace c.index b0 b1 b2 b3 }) ∧
    (∀ e evs, s.HasSlot slot c → CutOff (rdchTrace c.index b0 b1 b2 b3) e evs → s.far.Serves evs f →
      exec (.rdch slot) s = .next (s.endedTransport e f evs)) ∧
    (s.NoSlot slot → exec (.rdch slot) s = .next (s.ended 8))

/-- R107: `WRCH` writes the four bytes in rising order; at the first write that fails it ends with `TRANSPORT`, and what
was written stays. -/
def Obligations.WrchResult : Prop :=
  ∀ (s : State) (slot : Byte) (c : Slot) (d0 d1 d2 d3 : Byte) (f : FarSide),
    decode (packWord 0x15 slot (d1 ++ d0) (d3 ++ d2) 0) = .ok (.wrch slot d0 d1 d2 d3) ∧
    (s.HasSlot slot c → s.far.Serves (wrchTrace c.index d0 d1 d2 d3) f →
      exec (.wrch slot d0 d1 d2 d3) s = .next (s.endedWrites f (wrchTrace c.index d0 d1 d2 d3))) ∧
    (∀ e evs, s.HasSlot slot c → CutOff (wrchTrace c.index d0 d1 d2 d3) e evs → s.far.Serves evs f →
      exec (.wrch slot d0 d1 d2 d3) s = .next (s.endedTransport e f evs)) ∧
    (s.NoSlot slot → exec (.wrch slot d0 d1 d2 d3) s = .next (s.ended 8))

/-- R56, R110: two channels with different indices share no register. -/
def Obligations.ChannelsShareNoRegister : Prop :=
  ∀ (s t : State) (slot slot' : Byte) (c c' : Slot) (d0 d1 d2 d3 : Byte), s.HasSlot slot c → s.HasSlot slot' c' →
    c.index ≠ c'.index → exec (.wrch slot d0 d1 d2 d3) s = .next t →
    ∀ k < 4, Memory.read t.far.creg (BitVec.ofNat 8 (0x06 + k + 4 * c'.index.toNat)) =
      Memory.read s.far.creg (BitVec.ofNat 8 (0x06 + k + 4 * c'.index.toNat))

/-- R110: on the reference chip, `WRCH` followed by `RDCH` on the same channel returns exactly the written four bytes. -/
def Obligations.WriteThenReadReturnsBytes : Prop :=
  ∀ (s : State) (slot : Byte) (c : Slot) (d0 d1 d2 d3 : Byte), s.HasSlot slot c → s.far.IsChip →
    Memory.wf s.far.creg = true →
    ∃ t u, exec (.wrch slot d0 d1 d2 d3) s = .next t ∧ exec (.rdch slot) t = .next u ∧ u.code = 0 ∧
      u.res0 = d0.setWidth 16 ∧ u.res1 = d1.setWidth 16 ∧ u.res2 = d2.setWidth 16 ∧ u.res3 = d3.setWidth 16

/-! ## Controller -/

/-- R122: `INIT` runs its sequence and sets `ctl.valid`; at the first access that fails it ends with `TRANSPORT` and
`ctl.valid` = 0. -/
def Obligations.InitResult : Prop :=
  ∀ (s : State) (m : Byte) (f : FarSide),
    decode (packWord 0x20 0 0 0 0) = .ok .init ∧
    (s.far.Serves (initTrace m) f → exec .init s = .next
      { s with
        code := 0
        ctlValid := true
        seq := Sequencer.idle
        busy := false
        far := f
        events := s.events ++ initTrace m }) ∧
    (∀ e evs, CutOff (initTrace m) e evs → s.far.Serves evs f →
      exec .init s = .next (({ s with ctlValid := false } : State).endedTransport e f evs))

/-- R124: on the reference chip `INIT` leaves `MODE_1` = 0x01 and `MODE_2` = 0x04, whatever they held before. -/
def Obligations.InitOnReferenceChip : Prop :=
  ∀ s : State, s.far.IsChip → Memory.wf s.far.creg = true →
    ∃ t, exec .init s = .next t ∧ t.code = 0 ∧ t.ctlValid = true ∧
      Memory.read t.far.creg 0x00 = 0x01 ∧ Memory.read t.far.creg 0x01 = 0x04

/-- R125: `SETRATE` runs its sequence; at the first access that fails it ends with `TRANSPORT`, and what was written
stays. -/
def Obligations.SetrateResult : Prop :=
  ∀ (s : State) (prescale old : Byte) (f : FarSide),
    decode (packWord 0x21 0 (0#8 ++ prescale) 0 0) = .ok (.setrate prescale) ∧
    (s.ctlValid = true → s.far.Serves (setrateTrace prescale old) f →
      exec (.setrate prescale) s = .next (s.endedWrites f (setrateTrace prescale old))) ∧
    (∀ e evs, s.ctlValid = true → CutOff (setrateTrace prescale old) e evs → s.far.Serves evs f →
      exec (.setrate prescale) s = .next (s.endedTransport e f evs)) ∧
    (s.ctlValid = false → exec (.setrate prescale) s = .next (s.ended 7))

/-- R123, R126: whatever the far side answers, and however many moves of the block it takes, the accesses of `INIT` and
`SETRATE` are those of their tables, in order and none left out: in the move in which the command is accepted from row 1 on,
in a later move from the row the block stands in. -/
def Obligations.SequencesKeepTheirOrder : Prop :=
  ∀ s t : State,
    (exec .init s = .next t → s.Follows t initFrom 1) ∧
    (∀ prescale, exec (.setrate prescale) s = .next t → s.Follows t setrateFrom 1) ∧
    (s.busy = true → proceed s = .next t →
      (s.seq.op = .init → s.Follows t initFrom s.seq.step.toNat) ∧
      (s.seq.op = .setrate → s.Follows t setrateFrom s.seq.step.toNat))

/-- R127: after a successful `SETRATE` on a chip that stores what is written, `MODE_1` is `old_mode | RESTART` and
`PRE_SCALE` is the requested value. -/
def Obligations.SetrateOnReferenceChip : Prop :=
  ∀ (s : State) (prescale : Byte), s.ctlValid = true → s.far.IsChip → Memory.wf s.far.creg = true →
    ∃ t, exec (.setrate prescale) s = .next t ∧ t.code = 0 ∧
      Memory.read t.far.creg 0x00 = Memory.read s.far.creg 0x00 ||| 0x80 ∧
      Memory.read t.far.creg 0xFE = prescale

/-- R197: what a failure at each access of `SETRATE` leaves in `MODE_1` and `PRE_SCALE` of the reference chip. -/
def Obligations.SetrateFailurePoints : Prop :=
  ∀ (s t : State) (prescale : Byte) (e : Word32) (n : Nat), s.ctlValid = true → s.far.rest = .chip →
    Memory.wf s.far.creg = true → n < 5 → s.far.script = List.replicate n .chip ++ [.error e] →
    exec (.setrate prescale) s = .next t →
    t.code = 5 ∧ t.errBus = e ∧
      Memory.read t.far.creg 0x00 =
        (if n ≤ 1 then Memory.read s.far.creg 0x00
         else if n ≤ 3 then (Memory.read s.far.creg 0x00 &&& 0x7F) ||| 0x10
         else Memory.read s.far.creg 0x00) ∧
      Memory.read t.far.creg 0xFE = (if n ≤ 2 then Memory.read s.far.creg 0xFE else prescale)

/-- R198: a whole `SETRATE` writes `RESTART` before the stabilization wait exactly when the byte it read has bit 7 set. -/
def Obligations.EarlyRestartOnlyIfOldHadRestart : Prop :=
  ∀ (s t : State) (prescale : Byte), exec (.setrate prescale) s = .next t → t.busy = false → t.code = 0 →
    ∃ old evs, t.events = s.events ++ .rd 0x00 old :: evs ∧
      earlyRestart false (.rd 0x00 old :: evs) = old.getLsbD 7

/-- R128: `CALCPS` gives the low byte of the nearest integer to `OSC_FREQ / (4096 * rate)` less one, or refuses a rate that
is not positive. `OSC_FREQ` = 25000000 and the wrap are the spec's choices (log entry 12). -/
def Obligations.CalcpsResult : Prop :=
  ∀ (s : State) (rate : Half),
    decode (packWord 0x22 0 rate 0 0) = .ok (.calcps rate) ∧
    (0 < rate.toInt → ∃ p : Int, 2 * |25000000 - (p + 1) * (4096 * rate.toInt)| < 4096 * rate.toInt ∧
      exec (.calcps rate) s = .next
        { s with res0 := (BitVec.ofInt 8 p).setWidth 16, code := 0, seq := Sequencer.idle, busy := false }) ∧
    (rate.toInt ≤ 0 → exec (.calcps rate) s = .next (s.ended 6))

/-- R129: the prescale fits a byte exactly for rates from 24 to 12207, and there the two narrowings agree. -/
def Obligations.CalcpsRange : Prop :=
  ∀ rate : Nat, 1 ≤ rate → rate ≤ 32767 →
    ((24 ≤ rate ∧ rate ≤ 12207) ↔ (0 ≤ prescaleOf rate ∧ prescaleOf rate ≤ 255)) ∧
    (rate ≤ 23 → 264 ≤ prescaleOf rate ∧ prescaleOf rate ≤ 6103) ∧
    (12208 ≤ rate → prescaleOf rate = -1) ∧
    (24 ≤ rate → rate ≤ 12207 →
      narrowPrescale .wrap (prescaleOf rate) = narrowPrescale .saturate (prescaleOf rate))

/-- R121, R130: `SETCH` writes the low and high bytes of its two tick values to the channel's four registers, as `WRCH`
does. -/
def Obligations.SetchResult : Prop :=
  ∀ (s : State) (slot : Byte) (c : Slot) (on off : Half) (f : FarSide),
    decode (packWord 0x23 slot on off 0) = .ok (.setch slot on off) ∧
    (s.ctlValid = true → s.HasSlot slot c → s.far.Serves (setchTrace c.index on off) f →
      exec (.setch slot on off) s = .next (s.endedWrites f (setchTrace c.index on off))) ∧
    (∀ e evs, s.ctlValid = true → s.HasSlot slot c → CutOff (setchTrace c.index on off) e evs → s.far.Serves evs f →
      exec (.setch slot on off) s = .next (s.endedTransport e f evs)) ∧
    (s.ctlValid = false → exec (.setch slot on off) s = .next (s.ended 7)) ∧
    (s.ctlValid = true → s.NoSlot slot → exec (.setch slot on off) s = .next (s.ended 8))

/-- R121, R130: while a Controller exists, `SETCH` is the `WRCH` of the low and high bytes of its two tick values. -/
def Obligations.SetchIsWrchOfItsBytes : Prop :=
  ∀ (s : State) (slot : Byte) (on off : Half), s.ctlValid = true →
    exec (.setch slot on off) s =
      exec (.wrch slot (on.extractLsb' 0 8) (on.extractLsb' 8 8) (off.extractLsb' 0 8) (off.extractLsb' 8 8)) s

/-- R131: `SETALL` writes the same four bytes to the all-channels registers, using no slot. -/
def Obligations.SetallResult : Prop :=
  ∀ (s : State) (on off : Half) (f : FarSide),
    decode (packWord 0x24 0 on off 0) = .ok (.setall on off) ∧
    (s.ctlValid = true → s.far.Serves (setallTrace on off) f →
      exec (.setall on off) s = .next (s.endedWrites f (setallTrace on off))) ∧
    (∀ e evs, s.ctlValid = true → CutOff (setallTrace on off) e evs → s.far.Serves evs f →
      exec (.setall on off) s = .next (s.endedTransport e f evs)) ∧
    (s.ctlValid = false → exec (.setall on off) s = .next (s.ended 7))

/-! ## Servo -/

/-- R141: `MKSERVO` writes the whole slot, or refuses with the bounds of the first check that fails. -/
def Obligations.MkservoResult : Prop :=
  ∀ (s : State) (slot : Byte) (index mn mx : Half),
    decode (packWord 0x30 slot index mn mx) = .ok (.mkservo slot index mn mx) ∧
    (∀ _hs : slot.toNat < 16, index.toNat ≤ 15 → mn.toNat ≤ 4095 → mx.toNat ≤ 4095 → mn.toNat ≤ mx.toNat →
      exec (.mkservo slot index mn mx) s = .next
        { s with
          ch := s.ch.set slot.toNat
            ⟨true, .servo, index.extractLsb' 0 4, mn.extractLsb' 0 12, mx.extractLsb' 0 12⟩
          code := 0
          seq := Sequencer.idle
          busy := false }) ∧
    (slot.toNat < 16 → 15 < index.toNat → exec (.mkservo slot index mn mx) s = .next (s.endedRange 1 0 15 index.toNat)) ∧
    (slot.toNat < 16 → index.toNat ≤ 15 → 4095 < mn.toNat →
      exec (.mkservo slot index mn mx) s = .next (s.endedRange 4 0 4095 mn.toNat)) ∧
    (slot.toNat < 16 → index.toNat ≤ 15 → mn.toNat ≤ 4095 → 4095 < mx.toNat →
      exec (.mkservo slot index mn mx) s = .next (s.endedRange 4 0 4095 mx.toNat)) ∧
    (slot.toNat < 16 → index.toNat ≤ 15 → mn.toNat ≤ 4095 → mx.toNat < mn.toNat →
      exec (.mkservo slot index mn mx) s = .next (s.endedRange 4 0 mx.toNat mn.toNat)) ∧
    (16 ≤ slot.toNat → exec (.mkservo slot index mn mx) s = .next (s.ended 8))

/-- R143: `D2P` gives `min + floor((angle + 90) * (max - min) / 180)`, or refuses a slot, a LedChannel (R142), an angle
outside [-90, 90]. The premise `min ≤ max` is R22, kept by every step (`StepKeepsInvariant`). -/
def Obligations.D2pResult : Prop :=
  ∀ (s : State) (slot : Byte) (c : Slot) (angle : Half),
    decode (packWord 0x31 slot angle 0 0) = .ok (.d2p slot angle) ∧
    (s.HasSlot slot c → c.kind = .servo → c.minTick.toNat ≤ c.maxTick.toNat → -90 ≤ angle.toInt → angle.toInt ≤ 90 →
      ∃ v : Half,
        (v.toNat : Int) = c.minTick.toNat +
          ((angle.toInt + 90) * (c.maxTick.toNat - c.minTick.toNat)) / 180 ∧
        exec (.d2p slot angle) s = .next { s with res0 := v, code := 0, seq := Sequencer.idle, busy := false }) ∧
    (s.HasSlot slot c → c.kind = .servo → angle.toInt < -90 ∨ 90 < angle.toInt →
      exec (.d2p slot angle) s = .next (s.endedRange 2 (-90) 90 angle.toInt)) ∧
    (s.HasSlot slot c → c.kind = .led → exec (.d2p slot angle) s = .next (s.ended 9)) ∧
    (s.NoSlot slot → exec (.d2p slot angle) s = .next (s.ended 8))

/-- R144: `P2D` gives `round((ticks - min) * 180 / (max - min)) - 90`, or refuses a slot, a LedChannel (R142), ticks outside
the range, a range of zero width. -/
def Obligations.P2dResult : Prop :=
  ∀ (s : State) (slot : Byte) (c : Slot) (ticks : Half),
    decode (packWord 0x32 slot ticks 0 0) = .ok (.p2d slot ticks) ∧
    (s.HasSlot slot c → c.kind = .servo → c.minTick.toNat ≤ ticks.toNat → ticks.toNat ≤ c.maxTick.toNat →
      c.minTick ≠ c.maxTick → ∃ v : Half,
        v.toInt = ((360 * (ticks.toNat - c.minTick.toNat) + (c.maxTick.toNat - c.minTick.toNat)) /
          (2 * (c.maxTick.toNat - c.minTick.toNat)) : Int) - 90 ∧
        exec (.p2d slot ticks) s = .next { s with res0 := v, code := 0, seq := Sequencer.idle, busy := false }) ∧
    (s.HasSlot slot c → c.kind = .servo → ticks.toNat < c.minTick.toNat ∨ c.maxTick.toNat < ticks.toNat →
      exec (.p2d slot ticks) s = .next (s.endedRange 3 c.minTick.toNat c.maxTick.toNat ticks.toNat)) ∧
    (s.HasSlot slot c → c.kind = .servo → ticks.toNat = c.minTick.toNat → c.minTick = c.maxTick →
      exec (.p2d slot ticks) s = .next (s.ended 6)) ∧
    (s.HasSlot slot c → c.kind = .led → exec (.p2d slot ticks) s = .next (s.ended 9)) ∧
    (s.NoSlot slot → exec (.p2d slot ticks) s = .next (s.ended 8))

/-- R143, R144: the ticks of `D2P` lie in the slot's range, the angle of `P2D` in [-90, 90], and neither decreases as its
operand rises. -/
def Obligations.ConversionsStayInRangeAndRise : Prop :=
  ∀ (s t u : State) (slot : Byte) (c : Slot) (x y : Half), s.HasSlot slot c → c.kind = .servo →
    (c.minTick.toNat ≤ c.maxTick.toNat → x.toInt ≤ y.toInt →
      exec (.d2p slot x) s = .next t → exec (.d2p slot y) s = .next u → t.code = 0 → u.code = 0 →
      c.minTick.toNat ≤ t.res0.toNat ∧ t.res0.toNat ≤ u.res0.toNat ∧ u.res0.toNat ≤ c.maxTick.toNat) ∧
    (x.toNat ≤ y.toNat →
      exec (.p2d slot x) s = .next t → exec (.p2d slot y) s = .next u → t.code = 0 → u.code = 0 →
      -90 ≤ t.res0.toInt ∧ t.res0.toInt ≤ u.res0.toInt ∧ u.res0.toInt ≤ 90)

/-- R145: with the default settings the two conversions give every whole angle back. -/
def Obligations.DefaultSettingsRoundTrip : Prop :=
  ∀ (s t : State) (slot : Byte) (c : Slot) (x : Half), s.HasSlot slot c → c.kind = .servo → c.minTick = 0 →
    c.maxTick = 4095 → exec (.d2p slot x) s = .next t → t.code = 0 →
    ∃ u, exec (.p2d slot t.res0) t = .next u ∧ u.code = 0 ∧ u.res0 = x

/-! ## Frames -/

/-- R102, R141: what `MKLED` and `MKSERVO` leave unchanged, however they end. -/
def Obligations.ConstructorFrame : Prop :=
  ∀ (s t : State) (slot : Byte) (index mn mx : Half),
    exec (.mkled slot index) s = .next t ∨ exec (.mkservo slot index mn mx) s = .next t →
    s.SameSurroundings t ∧ (∀ k : Fin 16, k.val ≠ slot.toNat → t.ch[k] = s.ch[k]) ∧ t.res0 = s.res0 ∧ t.res1 = s.res1 ∧
      t.res2 = s.res2 ∧ t.res3 = s.res3 ∧ t.errBus = s.errBus ∧ t.ctlValid = s.ctlValid ∧ t.far = s.far ∧
      t.events = s.events ∧ t.seq = Sequencer.idle ∧ t.busy = false ∧ s.SameStoreBut t []

/-- R103, R104, R128, R143, R144: what the commands with one result leave unchanged, however they end. -/
def Obligations.OneResultFrame : Prop :=
  ∀ (i : Instr) (s t : State) (slot base : Byte) (v : Half),
    i ∈ [Instr.chidx slot, .regoff slot base, .calcps v, .d2p slot v, .p2d slot v] → exec i s = .next t →
    s.SameSurroundings t ∧ t.ch = s.ch ∧ t.res1 = s.res1 ∧ t.res2 = s.res2 ∧ t.res3 = s.res3 ∧ t.errBus = s.errBus ∧
      t.ctlValid = s.ctlValid ∧ t.far = s.far ∧ t.events = s.events ∧ t.seq = Sequencer.idle ∧ t.busy = false ∧
      s.SameStoreBut t [] ∧
      (i ∈ [Instr.chidx slot, .regoff slot base, .calcps v] →
        t.errMin = s.errMin ∧ t.errMax = s.errMax ∧ t.errVal = s.errVal)

/-- R105, R106: what `ADDR` and `RDCH` leave unchanged, however they end or wait: no byte of the chip is written. -/
def Obligations.FourResultFrame : Prop :=
  ∀ (s t : State) (slot : Byte), exec (.addr slot) s = .next t ∨ exec (.rdch slot) s = .next t →
    s.SameSurroundings t ∧ t.ch = s.ch ∧ t.errMin = s.errMin ∧ t.errMax = s.errMax ∧ t.errVal = s.errVal ∧
      t.ctlValid = s.ctlValid ∧ s.SameStoreBut t [] ∧
      (exec (.addr slot) s = .next t → t.errBus = s.errBus ∧ t.far = s.far ∧ t.events = s.events)

/-- R107, R130: what `WRCH` and `SETCH` leave unchanged, however they end or wait: no byte but those of the channel. -/
def Obligations.ChannelWriteFrame : Prop :=
  ∀ (s t : State) (slot d0 d1 d2 d3 : Byte) (on off : Half),
    exec (.wrch slot d0 d1 d2 d3) s = .next t ∨ exec (.setch slot on off) s = .next t →
    s.SameSurroundings t ∧ t.ch = s.ch ∧ t.res0 = s.res0 ∧ t.res1 = s.res1 ∧ t.res2 = s.res2 ∧ t.res3 = s.res3 ∧
      t.errMin = s.errMin ∧ t.errMax = s.errMax ∧ t.errVal = s.errVal ∧ t.ctlValid = s.ctlValid ∧
      (∀ c, s.HasSlot slot c → s.SameStoreBut t
        [busAddr (quad c.index).onLow, busAddr (quad c.index).onHigh, busAddr (quad c.index).offLow,
          busAddr (quad c.index).offHigh]) ∧
      (s.NoSlot slot → s.SameStoreBut t [])

/-- R122, R125, R131: what `INIT`, `SETRATE` and `SETALL` leave unchanged, however they end or wait: no byte but `MODE_1`
and `MODE_2`, or `MODE_1` and `PRE_SCALE`, or the all-channels registers; and only `INIT` writes `ctl.valid`. -/
def Obligations.ControllerFrame : Prop :=
  ∀ (i : Instr) (s t : State) (p : Byte) (on off : Half), i ∈ [Instr.init, .setrate p, .setall on off] →
    exec i s = .next t →
    s.SameSurroundings t ∧ t.ch = s.ch ∧ t.res0 = s.res0 ∧ t.res1 = s.res1 ∧ t.res2 = s.res2 ∧ t.res3 = s.res3 ∧
      t.errMin = s.errMin ∧ t.errMax = s.errMax ∧ t.errVal = s.errVal ∧ (i ≠ .init → t.ctlValid = s.ctlValid) ∧
      (i = .init → s.SameStoreBut t [0x00, 0x01]) ∧ (i = .setrate p → s.SameStoreBut t [0x00, 0xFE]) ∧
      (i = .setall on off → s.SameStoreBut t [0xFA, 0xFB, 0xFC, 0xFD])
end

