-- ==== Sys2Proof/Laws/Decode.lean ====
section
/-! SUPPORT. The five fields of a packed word are the fields it was packed from (R81), and a word is packed from its
fields. -/

namespace Sys2Proof

variable (op slot : Byte) (a b c : Half)

/-- Bit by bit, a packed word is its fields (R81). -/
theorem getLsbD_packWord (i : Nat) :
    (packWord op slot a b c).getLsbD i =
      if i < 16 then c.getLsbD i
      else if i < 32 then b.getLsbD (i - 16)
      else if i < 48 then a.getLsbD (i - 32)
      else if i < 56 then slot.getLsbD (i - 48)
      else op.getLsbD (i - 56) := by
  simp only [packWord, BitVec.getLsbD_append]
  split_ifs <;> first | rfl | omega

theorem opOf_packWord : opOf (packWord op slot a b c) = op := by
  apply BitVec.eq_of_getLsbD_eq
  intro i hi
  have h1 : ¬ 56 + i < 16 := by omega
  have h2 : ¬ 56 + i < 32 := by omega
  have h3 : ¬ 56 + i < 48 := by omega
  have h4 : ¬ 56 + i < 56 := by omega
  simp [opOf, getLsbD_packWord, hi, h1, h2, h3]

theorem slotOf_packWord : slotOf (packWord op slot a b c) = slot := by
  apply BitVec.eq_of_getLsbD_eq
  intro i hi
  have h1 : ¬ 48 + i < 16 := by omega
  have h2 : ¬ 48 + i < 32 := by omega
  have h3 : ¬ 48 + i < 48 := by omega
  have h4 : 48 + i < 56 := by omega
  simp [slotOf, getLsbD_packWord, hi, h1, h2, h4]

theorem aOf_packWord : aOf (packWord op slot a b c) = a := by
  apply BitVec.eq_of_getLsbD_eq
  intro i hi
  have h1 : ¬ 32 + i < 16 := by omega
  have h2 : ¬ 32 + i < 32 := by omega
  have h3 : 32 + i < 48 := by omega
  simp [aOf, getLsbD_packWord, hi, h1, h3]

theorem bOf_packWord : bOf (packWord op slot a b c) = b := by
  apply BitVec.eq_of_getLsbD_eq
  intro i hi
  have h2 : 16 + i < 32 := by omega
  simp [bOf, getLsbD_packWord, hi, h2]

theorem cOf_packWord : cOf (packWord op slot a b c) = c := by
  apply BitVec.eq_of_getLsbD_eq
  intro i hi
  simp [cOf, getLsbD_packWord, hi]

/-- A word is packed from its own fields (R81). -/
theorem packWord_fields (w : CmdWord) : packWord (opOf w) (slotOf w) (aOf w) (bOf w) (cOf w) = w := by
  apply BitVec.eq_of_getLsbD_eq
  intro i hi
  rw [getLsbD_packWord]
  simp only [opOf, slotOf, aOf, bOf, cOf, BitVec.getLsbD_extractLsb']
  split_ifs with h1 h2 h3 h4
  · simp [h1]
  · have e : 16 + (i - 16) = i := by omega
    simp [e]; omega
  · have e : 32 + (i - 32) = i := by omega
    simp [e]; omega
  · have e : 48 + (i - 48) = i := by omega
    simp [e]; omega
  · have e : 56 + (i - 56) = i := by omega
    simp [e]; omega

theorem lowByte_append (h l : Byte) : lowByte (h ++ l) = l := by
  apply BitVec.eq_of_getLsbD_eq
  intro i hi
  rw [lowByte, BitVec.getLsbD_extractLsb', BitVec.getLsbD_append]
  simp [hi]

theorem highByte_append (h l : Byte) : highByte (h ++ l) = h := by
  apply BitVec.eq_of_getLsbD_eq
  intro i hi
  rw [highByte, BitVec.getLsbD_extractLsb', BitVec.getLsbD_append]
  simp [hi]

/-- A 16-bit field is its two bytes (R82). -/
theorem highByte_append_lowByte (v : Half) : highByte v ++ lowByte v = v := by
  apply BitVec.eq_of_getLsbD_eq
  intro i hi
  simp only [highByte, lowByte, BitVec.getLsbD_append, BitVec.getLsbD_extractLsb']
  split_ifs with h
  · simp [h]
  · have e : 8 + (i - 8) = i := by omega
    simp [e]; omega

/-- Masking a packed word masks its fields. -/
theorem packWord_and (op' slot' : Byte) (a' b' c' : Half) :
    packWord op slot a b c &&& packWord op' slot' a' b' c' =
      packWord (op &&& op') (slot &&& slot') (a &&& a') (b &&& b') (c &&& c') := by
  apply BitVec.eq_of_getLsbD_eq
  intro i _
  simp only [BitVec.getLsbD_and, getLsbD_packWord]
  split_ifs <;> rfl

/-- Two packed words are equal exactly when their fields are. -/
theorem packWord_inj (op' slot' : Byte) (a' b' c' : Half) :
    packWord op slot a b c = packWord op' slot' a' b' c' ↔ op = op' ∧ slot = slot' ∧ a = a' ∧ b = b' ∧ c = c' := by
  constructor
  · intro h
    have h1 := congrArg opOf h
    have h2 := congrArg slotOf h
    have h3 := congrArg aOf h
    have h4 := congrArg bOf h
    have h5 := congrArg cOf h
    simp only [opOf_packWord, slotOf_packWord, aOf_packWord, bOf_packWord, cOf_packWord] at h1 h2 h3 h4 h5
    exact ⟨h1, h2, h3, h4, h5⟩
  · rintro ⟨rfl, rfl, rfl, rfl, rfl⟩
    rfl

/-- Decoding a packed word decodes its fields. -/
theorem decode_packWord : decode (packWord op slot a b c) = decodeFields op slot a b c := by
  simp only [decode, opOf_packWord, slotOf_packWord, aOf_packWord, bOf_packWord, cOf_packWord]

end Sys2Proof
end

