-- ==== Sys2Proof/Laws/Operands.lean ====
section
/-! SUPPORT. What the shared checks and address functions answer. -/

namespace Sys2Proof.Machine

theorem newSlot_ok {slot : Byte} (h : slot.toNat < Config.nslot) : newSlot slot = .ok ⟨slot.toNat, h⟩ := by
  simp only [newSlot, h, dif_pos]

theorem newSlot_bad {slot : Byte} (h : Config.nslot ≤ slot.toNat) : newSlot slot = .error .badSlot := by
  simp only [newSlot, Nat.not_lt.2 h, dif_neg, not_false_iff]

theorem newSlot_error {slot : Byte} {x : Exn} (h : newSlot slot = .error x) : x = .badSlot := by
  simp only [newSlot] at h
  split at h <;> simp_all

/-- `UseSlot` answers the descriptor of a valid slot (R101). -/
theorem useSlot_ok {s : State} {slot : Byte} {c : Slot} (h : s.HasSlot slot c) : useSlot s slot = .ok c := by
  obtain ⟨hn, hc, hv⟩ := h
  have : s.ch[slot.toNat] = c := by simpa [Vector.getElem?_eq_getElem hn] using hc
  simp [useSlot, hn, this, hv]

/-- `UseSlot` answers only valid slots (R101). -/
theorem hasSlot_of_useSlot {s : State} {slot : Byte} {c : Slot} (h : useSlot s slot = .ok c) : s.HasSlot slot c := by
  simp only [useSlot] at h
  split at h
  · rename_i hn
    split at h
    · rename_i hv
      cases h
      exact ⟨hn, Vector.getElem?_eq_getElem hn, hv⟩
    · cases h
  · cases h

theorem useSlot_error {s : State} {slot : Byte} {x : Exn} (h : useSlot s slot = .error x) : x = .badSlot := by
  simp only [useSlot] at h
  split at h
  · split at h <;> simp_all
  · simp_all

/-- `UseSlot` refuses a slot that names no valid descriptor (R101). -/
theorem useSlot_bad {s : State} {slot : Byte} (h : ∀ c, ¬ s.HasSlot slot c) : useSlot s slot = .error .badSlot := by
  cases hu : useSlot s slot with
  | ok c => exact absurd (hasSlot_of_useSlot hu) (h c)
  | error x => rw [useSlot_error hu]

/-- A slot holds a valid descriptor, or `UseSlot` refuses it (R101). -/
theorem noSlot_iff {s : State} {slot : Byte} : s.NoSlot slot ↔ ∀ c, ¬ s.HasSlot slot c := by
  constructor
  · rintro (h | ⟨d, hd, hv⟩) c ⟨hn, hc, hcv⟩
    · exact absurd hn (Nat.not_lt.2 h)
    · rw [hd] at hc
      cases hc
      simp [hv] at hcv
  · intro h
    by_cases hn : slot.toNat < Config.nslot
    · refine .inr ⟨s.ch[slot.toNat], Vector.getElem?_eq_getElem hn, ?_⟩
      by_contra hv
      exact h _ ⟨hn, Vector.getElem?_eq_getElem hn, by simpa using hv⟩
    · exact .inl (Nat.not_lt.1 hn)

theorem servoSlot_ok {s : State} {slot : Byte} {c : Slot} (h : s.HasSlot slot c) (hk : c.kind = .servo) :
    servoSlot s slot = .ok c := by
  simp [servoSlot, useSlot_ok h, hk]

theorem servoSlot_led {s : State} {slot : Byte} {c : Slot} (h : s.HasSlot slot c) (hk : c.kind = .led) :
    servoSlot s slot = .error .badKind := by
  simp [servoSlot, useSlot_ok h, hk]

theorem servoSlot_bad {s : State} {slot : Byte} (h : ∀ c, ¬ s.HasSlot slot c) :
    servoSlot s slot = .error .badSlot := by
  simp [servoSlot, useSlot_bad h]

/-- What `ServoSlot` can answer (R142). -/
theorem servoSlot_cases (s : State) (slot : Byte) :
    (∃ c, s.HasSlot slot c ∧ c.kind = .servo ∧ servoSlot s slot = .ok c) ∨
      servoSlot s slot = .error .badKind ∨ servoSlot s slot = .error .badSlot := by
  cases hu : useSlot s slot with
  | error x => exact .inr (.inr (by simp [servoSlot, hu, useSlot_error hu]))
  | ok c =>
    cases hk : c.kind with
    | led => exact .inr (.inl (by simp [servoSlot, hu, hk]))
    | servo => exact .inl ⟨c, hasSlot_of_useSlot hu, hk, by simp [servoSlot, hu, hk]⟩

theorem checkIndex_ok {index : Half} (h : index.toNat ≤ 15) : checkIndex index = .ok (index.setWidth 4) := by
  simp [checkIndex, Nat.not_lt.2 h]

theorem checkIndex_bad {index : Half} (h : 15 < index.toNat) :
    checkIndex index = .error (.rangeIndex 0 15 index.toNat) := by
  simp [checkIndex, h]

/-- The low byte of a tick value (R121). -/
theorem lo_eq (v : Half) : lo v = v.extractLsb' 0 8 := by
  apply BitVec.eq_of_getLsbD_eq
  intro i h
  have : BitVec.getLsbD (0xFF#16) i = true := by interval_cases i <;> rfl
  simp only [lo, BitVec.getLsbD_setWidth, BitVec.getLsbD_and, BitVec.getLsbD_extractLsb']
  simp [h, this]

/-- The high byte of a tick value (R121). -/
theorem hi_eq (v : Half) : hi v = v.extractLsb' 8 8 := by
  apply BitVec.eq_of_getLsbD_eq
  intro i h
  simp [hi, h]

/-- The register addresses of a channel are bytes (R56). -/
theorem busAddr_regoff {base : Nat} (h : base ≤ 9) (i : BitVec 4) : (busAddr (regoff base i)).toNat = base + 4 * i.toNat := by
  have := i.isLt
  simp only [busAddr, regoff, BitVec.toNat_ofNat]
  omega

end Sys2Proof.Machine
end

