-- ==== Sys2Proof/Laws/Memory.lean ====
section
/-! SUPPORT. The laws of the reference chip's store (R60): a read after a write, and the canonical form. -/

namespace Sys2Proof.Machine

theorem Memory.read_write_other (m : List Host.Cell) {a c : Byte} (v : Byte) (h : c ≠ a) :
    Memory.read (Memory.write m a v) c = Memory.read m c := by
  have h' : c.toNat ≠ a.toNat := fun e => h (BitVec.eq_of_toNat_eq e)
  induction m with
  | nil => simp only [Memory.write]; split <;> simp [Memory.read, h']
  | cons p m ih =>
    obtain ⟨b, x⟩ := p
    simp only [Memory.write]
    split
    · split <;> simp [Memory.read, h']
    · split
      · rename_i hb
        split <;> simp [Memory.read, h', ← hb]
      · simp only [Memory.read, ih]

/-- An address below every listed one reads as blank. -/
theorem Memory.read_below (m : List Host.Cell) (a : Byte) (h : ∀ c ∈ m, a.toNat < c.1) :
    Memory.read m a = Memory.blank := by
  induction m with
  | nil => rfl
  | cons p m ih =>
    have := h p (by simp)
    have hne : a.toNat ≠ p.1 := by omega
    simp [Memory.read, hne, ih (fun c hc => h c (by simp [hc]))]

theorem Memory.wf_cons {b : Nat} {x : Byte} {m : List Host.Cell} :
    Memory.wf ((b, x) :: m) = true ↔
      b < 256 ∧ x ≠ Memory.blank ∧ (∀ c ∈ m, b < c.1) ∧ Memory.wf m = true := by
  simp [Memory.wf, and_assoc]

theorem Memory.read_write_same (m : List Host.Cell) (a v : Byte) (h : Memory.wf m = true) :
    Memory.read (Memory.write m a v) a = v := by
  induction m with
  | nil => by_cases hv : v = Memory.blank <;> simp [Memory.write, Memory.read, hv]
  | cons p m ih =>
    obtain ⟨b, x⟩ := p
    obtain ⟨_, _, hlt, hm⟩ := Memory.wf_cons.1 h
    by_cases h1 : a.toNat < b
    · by_cases hv : v = Memory.blank
      · simp only [Memory.write, h1, hv, if_true]
        refine Memory.read_below _ _ fun c hc => ?_
        rcases List.mem_cons.1 hc with rfl | hc
        · exact h1
        · exact Nat.lt_trans h1 (hlt c hc)
      · simp [Memory.write, h1, hv, Memory.read]
    · by_cases h2 : a.toNat = b
      · by_cases hv : v = Memory.blank
        · simp only [Memory.write, h2, hv, if_true, Nat.lt_irrefl, if_false]
          exact Memory.read_below _ _ fun c hc => h2 ▸ hlt c hc
        · simp [Memory.write, h2, hv, Memory.read]
      · simp only [Memory.write, h1, h2, if_false, Memory.read]
        exact ih hm

/-- Every entry after a write is an old one or the written one. -/
theorem Memory.mem_write {m : List Host.Cell} {a v : Byte} {c : Host.Cell} (h : c ∈ Memory.write m a v) :
    c ∈ m ∨ c = (a.toNat, v) := by
  induction m with
  | nil => by_cases hv : v = Memory.blank <;> simp_all [Memory.write]
  | cons p m ih =>
    obtain ⟨b, x⟩ := p
    simp only [Memory.write] at h
    split at h
    · split at h
      · exact .inl h
      · rcases List.mem_cons.1 h with rfl | h
        · exact .inr rfl
        · exact .inl h
    · split at h
      · split at h
        · exact .inl (List.mem_cons_of_mem _ h)
        · rcases List.mem_cons.1 h with rfl | h
          · exact .inr rfl
          · exact .inl (List.mem_cons_of_mem _ h)
      · rcases List.mem_cons.1 h with rfl | h
        · exact .inl (by simp)
        · exact (ih h).imp (List.mem_cons_of_mem _) id

theorem Memory.write_wf (m : List Host.Cell) (a v : Byte) (h : Memory.wf m = true) :
    Memory.wf (Memory.write m a v) = true := by
  induction m with
  | nil =>
    by_cases hv : v = Memory.blank
    · simp [Memory.write, hv, Memory.wf]
    · simp [Memory.write, hv, Memory.wf, a.isLt]
  | cons p m ih =>
    obtain ⟨b, x⟩ := p
    obtain ⟨hb, hx, hlt, hm⟩ := Memory.wf_cons.1 h
    simp only [Memory.write]
    split
    · rename_i h1
      split
      · exact h
      · rename_i hv
        refine Memory.wf_cons.2 ⟨a.isLt, hv, fun c hc => ?_, h⟩
        rcases List.mem_cons.1 hc with rfl | hc
        · exact h1
        · exact Nat.lt_trans h1 (hlt c hc)
    · rename_i h1
      split
      · rename_i h2
        split
        · exact hm
        · rename_i hv
          exact Memory.wf_cons.2 ⟨a.isLt, hv, fun c hc => h2 ▸ hlt c hc, hm⟩
      · rename_i h2
        refine Memory.wf_cons.2 ⟨hb, hx, fun c hc => ?_, ih hm⟩
        rcases Memory.mem_write hc with hc | rfl
        · exact hlt c hc
        · show b < a.toNat
          omega

end Sys2Proof.Machine
end

