-- ==== Sys2Proof/Laws/FarSide.lean ====
section
/-! SUPPORT. What the two accesses of the Bus Transport (R51) do to the far side, said once. -/

namespace Sys2Proof.Machine

@[simp] theorem FarSide.store_creg (f : FarSide) (a v : Byte) : (f.store a v).creg = Memory.write f.creg a v := rfl
@[simp] theorem FarSide.store_script (f : FarSide) (a v : Byte) : (f.store a v).script = f.script := rfl
@[simp] theorem FarSide.store_rest (f : FarSide) (a v : Byte) : (f.store a v).rest = f.rest := rfl
@[simp] theorem FarSide.store_draws (f : FarSide) (a v : Byte) : (f.store a v).draws = f.draws := rfl

@[simp] theorem FarSide.next_creg (f : FarSide) : f.next.2.creg = f.creg := by
  simp only [FarSide.next]
  split
  · rfl
  · split <;> rfl

/-- A read leaves the store as it was (R60). -/
@[simp] theorem FarSide.read_creg (f : FarSide) (a : Byte) : (f.read a).2.creg = f.creg := by
  simp only [FarSide.read]
  split <;> simp

/-- A write leaves the store as it was or stores its byte (R60). -/
theorem FarSide.write_creg (f : FarSide) (a v : Byte) :
    (f.write a v).2.creg = f.creg ∨ (f.write a v).2.creg = Memory.write f.creg a v := by
  simp only [FarSide.write]
  split <;> simp

/-- A write that succeeds stores its byte (R60). -/
theorem FarSide.write_ok_creg {f g : FarSide} {a v : Byte} (h : f.write a v = (some (.ok ()), g)) :
    g.creg = Memory.write f.creg a v := by
  simp only [FarSide.write] at h
  split at h <;> simp only [Prod.mk.injEq, Option.some.injEq, reduceCtorEq, false_and, true_and] at h <;> subst h <;> simp

@[simp] theorem FarSide.waitGoesOn_creg (f : FarSide) : f.waitGoesOn.2.creg = f.creg := by
  simp only [FarSide.waitGoesOn]
  split <;> rfl

theorem FarSide.read_wf {f : FarSide} (a : Byte) (h : Memory.wf f.creg = true) :
    Memory.wf (f.read a).2.creg = true := by simpa using h

theorem FarSide.write_wf {f : FarSide} (a v : Byte) (h : Memory.wf f.creg = true) :
    Memory.wf (f.write a v).2.creg = true := by
  rcases f.write_creg a v with e | e <;> rw [e]
  · exact h
  · exact Memory.write_wf _ _ _ h

/-- The reference chip answers a read with the stored byte (R60). -/
theorem FarSide.read_chip {f : FarSide} (h : f.IsChip) (a : Byte) :
    f.read a = (some (.ok (Memory.read f.creg a)), f) := by
  simp [FarSide.read, FarSide.next, h.1, h.2]

/-- The reference chip takes every write (R60). -/
theorem FarSide.write_chip {f : FarSide} (h : f.IsChip) (a v : Byte) :
    f.write a v = (some (.ok ()), f.store a v) := by
  simp [FarSide.write, FarSide.next, h.1, h.2]

/-- The reference chip is still the reference chip after a store. -/
theorem FarSide.store_isChip {f : FarSide} (h : f.IsChip) (a v : Byte) : (f.store a v).IsChip := h

/-- No wait goes on while nothing is left in the script. -/
theorem FarSide.waitGoesOn_chip {f : FarSide} (h : f.IsChip) : f.waitGoesOn = (false, f) := by
  simp [FarSide.waitGoesOn, h.1]

/-- A prompt far side answers, and stays prompt. -/
theorem FarSide.next_prompt {f : FarSide} (h : f.Prompt) :
    (∃ a, f.next.1 = some a ∧ a ≠ .later) ∧ f.next.2.Prompt := by
  obtain ⟨hs, hr⟩ := h
  cases hsc : f.script with
  | nil => simp [FarSide.next, FarSide.Prompt, hsc, hr]
  | cons a as =>
    rw [hsc] at hs
    simp only [List.mem_cons, not_or] at hs
    refine ⟨⟨a, by simp [FarSide.next, hsc], fun e => hs.1 e.symm⟩, ?_⟩
    simp [FarSide.next, FarSide.Prompt, hsc, hs.2, hr]

theorem FarSide.read_prompt {f : FarSide} (h : f.Prompt) (a : Byte) :
    (∃ r, (f.read a).1 = some r) ∧ (f.read a).2.Prompt := by
  obtain ⟨⟨b, hb, hl⟩, hp⟩ := FarSide.next_prompt h
  cases b <;> simp_all [FarSide.read]

theorem FarSide.write_prompt {f : FarSide} (h : f.Prompt) (a v : Byte) :
    (∃ r, (f.write a v).1 = some r) ∧ (f.write a v).2.Prompt := by
  obtain ⟨⟨b, hb, hl⟩, hp⟩ := FarSide.next_prompt h
  cases b <;> simp_all [FarSide.write, FarSide.Prompt]

theorem FarSide.waitGoesOn_prompt {f : FarSide} (h : f.Prompt) : f.waitGoesOn = (false, f) := by
  simp only [FarSide.waitGoesOn]
  split
  · rename_i as e
    exact absurd (by simp [e]) h.1
  · rfl

end Sys2Proof.Machine
end

