-- ==== Sys2Proof/Laws/State.lean ====
section
/-! SUPPORT. What each named update leaves in each field of `State`: one lemma per field and update, so that no proof
unfolds a record update; and what taking an exception (R166) leaves. -/

namespace Sys2Proof.Machine

variable (s : State)

@[simp] theorem State.setSlot_ch (n : Fin Config.nslot) (c : Slot) : (s.setSlot n c).ch = s.ch.set n c := rfl
@[simp] theorem State.setSlot_res0 (n : Fin Config.nslot) (c : Slot) : (s.setSlot n c).res0 = s.res0 := rfl
@[simp] theorem State.setSlot_res1 (n : Fin Config.nslot) (c : Slot) : (s.setSlot n c).res1 = s.res1 := rfl
@[simp] theorem State.setSlot_res2 (n : Fin Config.nslot) (c : Slot) : (s.setSlot n c).res2 = s.res2 := rfl
@[simp] theorem State.setSlot_res3 (n : Fin Config.nslot) (c : Slot) : (s.setSlot n c).res3 = s.res3 := rfl
@[simp] theorem State.setSlot_code (n : Fin Config.nslot) (c : Slot) : (s.setSlot n c).code = s.code := rfl
@[simp] theorem State.setSlot_errMin (n : Fin Config.nslot) (c : Slot) : (s.setSlot n c).errMin = s.errMin := rfl
@[simp] theorem State.setSlot_errMax (n : Fin Config.nslot) (c : Slot) : (s.setSlot n c).errMax = s.errMax := rfl
@[simp] theorem State.setSlot_errVal (n : Fin Config.nslot) (c : Slot) : (s.setSlot n c).errVal = s.errVal := rfl
@[simp] theorem State.setSlot_errBus (n : Fin Config.nslot) (c : Slot) : (s.setSlot n c).errBus = s.errBus := rfl
@[simp] theorem State.setSlot_ctlValid (n : Fin Config.nslot) (c : Slot) : (s.setSlot n c).ctlValid = s.ctlValid := rfl
@[simp] theorem State.setSlot_seq (n : Fin Config.nslot) (c : Slot) : (s.setSlot n c).seq = s.seq := rfl
@[simp] theorem State.setSlot_busy (n : Fin Config.nslot) (c : Slot) : (s.setSlot n c).busy = s.busy := rfl
@[simp] theorem State.setSlot_host (n : Fin Config.nslot) (c : Slot) : (s.setSlot n c).host = s.host := rfl
@[simp] theorem State.setSlot_readLog (n : Fin Config.nslot) (c : Slot) : (s.setSlot n c).readLog = s.readLog := rfl
@[simp] theorem State.setSlot_fresh (n : Fin Config.nslot) (c : Slot) : (s.setSlot n c).fresh = s.fresh := rfl
@[simp] theorem State.setSlot_far (n : Fin Config.nslot) (c : Slot) : (s.setSlot n c).far = s.far := rfl
@[simp] theorem State.setSlot_events (n : Fin Config.nslot) (c : Slot) : (s.setSlot n c).events = s.events := rfl

@[simp] theorem State.setRes0_ch (v : Half) : (s.setRes0 v).ch = s.ch := rfl
@[simp] theorem State.setRes0_res0 (v : Half) : (s.setRes0 v).res0 = v := rfl
@[simp] theorem State.setRes0_res1 (v : Half) : (s.setRes0 v).res1 = s.res1 := rfl
@[simp] theorem State.setRes0_res2 (v : Half) : (s.setRes0 v).res2 = s.res2 := rfl
@[simp] theorem State.setRes0_res3 (v : Half) : (s.setRes0 v).res3 = s.res3 := rfl
@[simp] theorem State.setRes0_code (v : Half) : (s.setRes0 v).code = s.code := rfl
@[simp] theorem State.setRes0_errMin (v : Half) : (s.setRes0 v).errMin = s.errMin := rfl
@[simp] theorem State.setRes0_errMax (v : Half) : (s.setRes0 v).errMax = s.errMax := rfl
@[simp] theorem State.setRes0_errVal (v : Half) : (s.setRes0 v).errVal = s.errVal := rfl
@[simp] theorem State.setRes0_errBus (v : Half) : (s.setRes0 v).errBus = s.errBus := rfl
@[simp] theorem State.setRes0_ctlValid (v : Half) : (s.setRes0 v).ctlValid = s.ctlValid := rfl
@[simp] theorem State.setRes0_seq (v : Half) : (s.setRes0 v).seq = s.seq := rfl
@[simp] theorem State.setRes0_busy (v : Half) : (s.setRes0 v).busy = s.busy := rfl
@[simp] theorem State.setRes0_host (v : Half) : (s.setRes0 v).host = s.host := rfl
@[simp] theorem State.setRes0_readLog (v : Half) : (s.setRes0 v).readLog = s.readLog := rfl
@[simp] theorem State.setRes0_fresh (v : Half) : (s.setRes0 v).fresh = s.fresh := rfl
@[simp] theorem State.setRes0_far (v : Half) : (s.setRes0 v).far = s.far := rfl
@[simp] theorem State.setRes0_events (v : Half) : (s.setRes0 v).events = s.events := rfl

@[simp] theorem State.setRes_ch (v0 v1 v2 v3 : Half) : (s.setRes v0 v1 v2 v3).ch = s.ch := rfl
@[simp] theorem State.setRes_res0 (v0 v1 v2 v3 : Half) : (s.setRes v0 v1 v2 v3).res0 = v0 := rfl
@[simp] theorem State.setRes_res1 (v0 v1 v2 v3 : Half) : (s.setRes v0 v1 v2 v3).res1 = v1 := rfl
@[simp] theorem State.setRes_res2 (v0 v1 v2 v3 : Half) : (s.setRes v0 v1 v2 v3).res2 = v2 := rfl
@[simp] theorem State.setRes_res3 (v0 v1 v2 v3 : Half) : (s.setRes v0 v1 v2 v3).res3 = v3 := rfl
@[simp] theorem State.setRes_code (v0 v1 v2 v3 : Half) : (s.setRes v0 v1 v2 v3).code = s.code := rfl
@[simp] theorem State.setRes_errMin (v0 v1 v2 v3 : Half) : (s.setRes v0 v1 v2 v3).errMin = s.errMin := rfl
@[simp] theorem State.setRes_errMax (v0 v1 v2 v3 : Half) : (s.setRes v0 v1 v2 v3).errMax = s.errMax := rfl
@[simp] theorem State.setRes_errVal (v0 v1 v2 v3 : Half) : (s.setRes v0 v1 v2 v3).errVal = s.errVal := rfl
@[simp] theorem State.setRes_errBus (v0 v1 v2 v3 : Half) : (s.setRes v0 v1 v2 v3).errBus = s.errBus := rfl
@[simp] theorem State.setRes_ctlValid (v0 v1 v2 v3 : Half) : (s.setRes v0 v1 v2 v3).ctlValid = s.ctlValid := rfl
@[simp] theorem State.setRes_seq (v0 v1 v2 v3 : Half) : (s.setRes v0 v1 v2 v3).seq = s.seq := rfl
@[simp] theorem State.setRes_busy (v0 v1 v2 v3 : Half) : (s.setRes v0 v1 v2 v3).busy = s.busy := rfl
@[simp] theorem State.setRes_host (v0 v1 v2 v3 : Half) : (s.setRes v0 v1 v2 v3).host = s.host := rfl
@[simp] theorem State.setRes_readLog (v0 v1 v2 v3 : Half) : (s.setRes v0 v1 v2 v3).readLog = s.readLog := rfl
@[simp] theorem State.setRes_fresh (v0 v1 v2 v3 : Half) : (s.setRes v0 v1 v2 v3).fresh = s.fresh := rfl
@[simp] theorem State.setRes_far (v0 v1 v2 v3 : Half) : (s.setRes v0 v1 v2 v3).far = s.far := rfl
@[simp] theorem State.setRes_events (v0 v1 v2 v3 : Half) : (s.setRes v0 v1 v2 v3).events = s.events := rfl

@[simp] theorem State.setCode_ch (c : Byte) : (s.setCode c).ch = s.ch := rfl
@[simp] theorem State.setCode_res0 (c : Byte) : (s.setCode c).res0 = s.res0 := rfl
@[simp] theorem State.setCode_res1 (c : Byte) : (s.setCode c).res1 = s.res1 := rfl
@[simp] theorem State.setCode_res2 (c : Byte) : (s.setCode c).res2 = s.res2 := rfl
@[simp] theorem State.setCode_res3 (c : Byte) : (s.setCode c).res3 = s.res3 := rfl
@[simp] theorem State.setCode_code (c : Byte) : (s.setCode c).code = c := rfl
@[simp] theorem State.setCode_errMin (c : Byte) : (s.setCode c).errMin = s.errMin := rfl
@[simp] theorem State.setCode_errMax (c : Byte) : (s.setCode c).errMax = s.errMax := rfl
@[simp] theorem State.setCode_errVal (c : Byte) : (s.setCode c).errVal = s.errVal := rfl
@[simp] theorem State.setCode_errBus (c : Byte) : (s.setCode c).errBus = s.errBus := rfl
@[simp] theorem State.setCode_ctlValid (c : Byte) : (s.setCode c).ctlValid = s.ctlValid := rfl
@[simp] theorem State.setCode_seq (c : Byte) : (s.setCode c).seq = s.seq := rfl
@[simp] theorem State.setCode_busy (c : Byte) : (s.setCode c).busy = s.busy := rfl
@[simp] theorem State.setCode_host (c : Byte) : (s.setCode c).host = s.host := rfl
@[simp] theorem State.setCode_readLog (c : Byte) : (s.setCode c).readLog = s.readLog := rfl
@[simp] theorem State.setCode_fresh (c : Byte) : (s.setCode c).fresh = s.fresh := rfl
@[simp] theorem State.setCode_far (c : Byte) : (s.setCode c).far = s.far := rfl
@[simp] theorem State.setCode_events (c : Byte) : (s.setCode c).events = s.events := rfl

@[simp] theorem State.setRange_ch (mn mx v : Int) : (s.setRange mn mx v).ch = s.ch := rfl
@[simp] theorem State.setRange_res0 (mn mx v : Int) : (s.setRange mn mx v).res0 = s.res0 := rfl
@[simp] theorem State.setRange_res1 (mn mx v : Int) : (s.setRange mn mx v).res1 = s.res1 := rfl
@[simp] theorem State.setRange_res2 (mn mx v : Int) : (s.setRange mn mx v).res2 = s.res2 := rfl
@[simp] theorem State.setRange_res3 (mn mx v : Int) : (s.setRange mn mx v).res3 = s.res3 := rfl
@[simp] theorem State.setRange_code (mn mx v : Int) : (s.setRange mn mx v).code = s.code := rfl
@[simp] theorem State.setRange_errMin (mn mx v : Int) : (s.setRange mn mx v).errMin = BitVec.ofInt 32 mn := rfl
@[simp] theorem State.setRange_errMax (mn mx v : Int) : (s.setRange mn mx v).errMax = BitVec.ofInt 32 mx := rfl
@[simp] theorem State.setRange_errVal (mn mx v : Int) : (s.setRange mn mx v).errVal = BitVec.ofInt 32 v := rfl
@[simp] theorem State.setRange_errBus (mn mx v : Int) : (s.setRange mn mx v).errBus = s.errBus := rfl
@[simp] theorem State.setRange_ctlValid (mn mx v : Int) : (s.setRange mn mx v).ctlValid = s.ctlValid := rfl
@[simp] theorem State.setRange_seq (mn mx v : Int) : (s.setRange mn mx v).seq = s.seq := rfl
@[simp] theorem State.setRange_busy (mn mx v : Int) : (s.setRange mn mx v).busy = s.busy := rfl
@[simp] theorem State.setRange_host (mn mx v : Int) : (s.setRange mn mx v).host = s.host := rfl
@[simp] theorem State.setRange_readLog (mn mx v : Int) : (s.setRange mn mx v).readLog = s.readLog := rfl
@[simp] theorem State.setRange_fresh (mn mx v : Int) : (s.setRange mn mx v).fresh = s.fresh := rfl
@[simp] theorem State.setRange_far (mn mx v : Int) : (s.setRange mn mx v).far = s.far := rfl
@[simp] theorem State.setRange_events (mn mx v : Int) : (s.setRange mn mx v).events = s.events := rfl

@[simp] theorem State.setErrBus_ch (e : Word32) : (s.setErrBus e).ch = s.ch := rfl
@[simp] theorem State.setErrBus_res0 (e : Word32) : (s.setErrBus e).res0 = s.res0 := rfl
@[simp] theorem State.setErrBus_res1 (e : Word32) : (s.setErrBus e).res1 = s.res1 := rfl
@[simp] theorem State.setErrBus_res2 (e : Word32) : (s.setErrBus e).res2 = s.res2 := rfl
@[simp] theorem State.setErrBus_res3 (e : Word32) : (s.setErrBus e).res3 = s.res3 := rfl
@[simp] theorem State.setErrBus_code (e : Word32) : (s.setErrBus e).code = s.code := rfl
@[simp] theorem State.setErrBus_errMin (e : Word32) : (s.setErrBus e).errMin = s.errMin := rfl
@[simp] theorem State.setErrBus_errMax (e : Word32) : (s.setErrBus e).errMax = s.errMax := rfl
@[simp] theorem State.setErrBus_errVal (e : Word32) : (s.setErrBus e).errVal = s.errVal := rfl
@[simp] theorem State.setErrBus_errBus (e : Word32) : (s.setErrBus e).errBus = e := rfl
@[simp] theorem State.setErrBus_ctlValid (e : Word32) : (s.setErrBus e).ctlValid = s.ctlValid := rfl
@[simp] theorem State.setErrBus_seq (e : Word32) : (s.setErrBus e).seq = s.seq := rfl
@[simp] theorem State.setErrBus_busy (e : Word32) : (s.setErrBus e).busy = s.busy := rfl
@[simp] theorem State.setErrBus_host (e : Word32) : (s.setErrBus e).host = s.host := rfl
@[simp] theorem State.setErrBus_readLog (e : Word32) : (s.setErrBus e).readLog = s.readLog := rfl
@[simp] theorem State.setErrBus_fresh (e : Word32) : (s.setErrBus e).fresh = s.fresh := rfl
@[simp] theorem State.setErrBus_far (e : Word32) : (s.setErrBus e).far = s.far := rfl
@[simp] theorem State.setErrBus_events (e : Word32) : (s.setErrBus e).events = s.events := rfl

@[simp] theorem State.setCtl_ch (b : Bool) : (s.setCtl b).ch = s.ch := rfl
@[simp] theorem State.setCtl_res0 (b : Bool) : (s.setCtl b).res0 = s.res0 := rfl
@[simp] theorem State.setCtl_res1 (b : Bool) : (s.setCtl b).res1 = s.res1 := rfl
@[simp] theorem State.setCtl_res2 (b : Bool) : (s.setCtl b).res2 = s.res2 := rfl
@[simp] theorem State.setCtl_res3 (b : Bool) : (s.setCtl b).res3 = s.res3 := rfl
@[simp] theorem State.setCtl_code (b : Bool) : (s.setCtl b).code = s.code := rfl
@[simp] theorem State.setCtl_errMin (b : Bool) : (s.setCtl b).errMin = s.errMin := rfl
@[simp] theorem State.setCtl_errMax (b : Bool) : (s.setCtl b).errMax = s.errMax := rfl
@[simp] theorem State.setCtl_errVal (b : Bool) : (s.setCtl b).errVal = s.errVal := rfl
@[simp] theorem State.setCtl_errBus (b : Bool) : (s.setCtl b).errBus = s.errBus := rfl
@[simp] theorem State.setCtl_ctlValid (b : Bool) : (s.setCtl b).ctlValid = b := rfl
@[simp] theorem State.setCtl_seq (b : Bool) : (s.setCtl b).seq = s.seq := rfl
@[simp] theorem State.setCtl_busy (b : Bool) : (s.setCtl b).busy = s.busy := rfl
@[simp] theorem State.setCtl_host (b : Bool) : (s.setCtl b).host = s.host := rfl
@[simp] theorem State.setCtl_readLog (b : Bool) : (s.setCtl b).readLog = s.readLog := rfl
@[simp] theorem State.setCtl_fresh (b : Bool) : (s.setCtl b).fresh = s.fresh := rfl
@[simp] theorem State.setCtl_far (b : Bool) : (s.setCtl b).far = s.far := rfl
@[simp] theorem State.setCtl_events (b : Bool) : (s.setCtl b).events = s.events := rfl

@[simp] theorem State.setSeq_ch (q : Sequencer) : (s.setSeq q).ch = s.ch := rfl
@[simp] theorem State.setSeq_res0 (q : Sequencer) : (s.setSeq q).res0 = s.res0 := rfl
@[simp] theorem State.setSeq_res1 (q : Sequencer) : (s.setSeq q).res1 = s.res1 := rfl
@[simp] theorem State.setSeq_res2 (q : Sequencer) : (s.setSeq q).res2 = s.res2 := rfl
@[simp] theorem State.setSeq_res3 (q : Sequencer) : (s.setSeq q).res3 = s.res3 := rfl
@[simp] theorem State.setSeq_code (q : Sequencer) : (s.setSeq q).code = s.code := rfl
@[simp] theorem State.setSeq_errMin (q : Sequencer) : (s.setSeq q).errMin = s.errMin := rfl
@[simp] theorem State.setSeq_errMax (q : Sequencer) : (s.setSeq q).errMax = s.errMax := rfl
@[simp] theorem State.setSeq_errVal (q : Sequencer) : (s.setSeq q).errVal = s.errVal := rfl
@[simp] theorem State.setSeq_errBus (q : Sequencer) : (s.setSeq q).errBus = s.errBus := rfl
@[simp] theorem State.setSeq_ctlValid (q : Sequencer) : (s.setSeq q).ctlValid = s.ctlValid := rfl
@[simp] theorem State.setSeq_seq (q : Sequencer) : (s.setSeq q).seq = q := rfl
@[simp] theorem State.setSeq_busy (q : Sequencer) : (s.setSeq q).busy = s.busy := rfl
@[simp] theorem State.setSeq_host (q : Sequencer) : (s.setSeq q).host = s.host := rfl
@[simp] theorem State.setSeq_readLog (q : Sequencer) : (s.setSeq q).readLog = s.readLog := rfl
@[simp] theorem State.setSeq_fresh (q : Sequencer) : (s.setSeq q).fresh = s.fresh := rfl
@[simp] theorem State.setSeq_far (q : Sequencer) : (s.setSeq q).far = s.far := rfl
@[simp] theorem State.setSeq_events (q : Sequencer) : (s.setSeq q).events = s.events := rfl

@[simp] theorem State.setBusy_ch (b : Bool) : (s.setBusy b).ch = s.ch := rfl
@[simp] theorem State.setBusy_res0 (b : Bool) : (s.setBusy b).res0 = s.res0 := rfl
@[simp] theorem State.setBusy_res1 (b : Bool) : (s.setBusy b).res1 = s.res1 := rfl
@[simp] theorem State.setBusy_res2 (b : Bool) : (s.setBusy b).res2 = s.res2 := rfl
@[simp] theorem State.setBusy_res3 (b : Bool) : (s.setBusy b).res3 = s.res3 := rfl
@[simp] theorem State.setBusy_code (b : Bool) : (s.setBusy b).code = s.code := rfl
@[simp] theorem State.setBusy_errMin (b : Bool) : (s.setBusy b).errMin = s.errMin := rfl
@[simp] theorem State.setBusy_errMax (b : Bool) : (s.setBusy b).errMax = s.errMax := rfl
@[simp] theorem State.setBusy_errVal (b : Bool) : (s.setBusy b).errVal = s.errVal := rfl
@[simp] theorem State.setBusy_errBus (b : Bool) : (s.setBusy b).errBus = s.errBus := rfl
@[simp] theorem State.setBusy_ctlValid (b : Bool) : (s.setBusy b).ctlValid = s.ctlValid := rfl
@[simp] theorem State.setBusy_seq (b : Bool) : (s.setBusy b).seq = s.seq := rfl
@[simp] theorem State.setBusy_busy (b : Bool) : (s.setBusy b).busy = b := rfl
@[simp] theorem State.setBusy_host (b : Bool) : (s.setBusy b).host = s.host := rfl
@[simp] theorem State.setBusy_readLog (b : Bool) : (s.setBusy b).readLog = s.readLog := rfl
@[simp] theorem State.setBusy_fresh (b : Bool) : (s.setBusy b).fresh = s.fresh := rfl
@[simp] theorem State.setBusy_far (b : Bool) : (s.setBusy b).far = s.far := rfl
@[simp] theorem State.setBusy_events (b : Bool) : (s.setBusy b).events = s.events := rfl

@[simp] theorem State.setHost_ch (h : List HostAct) : (s.setHost h).ch = s.ch := rfl
@[simp] theorem State.setHost_res0 (h : List HostAct) : (s.setHost h).res0 = s.res0 := rfl
@[simp] theorem State.setHost_res1 (h : List HostAct) : (s.setHost h).res1 = s.res1 := rfl
@[simp] theorem State.setHost_res2 (h : List HostAct) : (s.setHost h).res2 = s.res2 := rfl
@[simp] theorem State.setHost_res3 (h : List HostAct) : (s.setHost h).res3 = s.res3 := rfl
@[simp] theorem State.setHost_code (h : List HostAct) : (s.setHost h).code = s.code := rfl
@[simp] theorem State.setHost_errMin (h : List HostAct) : (s.setHost h).errMin = s.errMin := rfl
@[simp] theorem State.setHost_errMax (h : List HostAct) : (s.setHost h).errMax = s.errMax := rfl
@[simp] theorem State.setHost_errVal (h : List HostAct) : (s.setHost h).errVal = s.errVal := rfl
@[simp] theorem State.setHost_errBus (h : List HostAct) : (s.setHost h).errBus = s.errBus := rfl
@[simp] theorem State.setHost_ctlValid (h : List HostAct) : (s.setHost h).ctlValid = s.ctlValid := rfl
@[simp] theorem State.setHost_seq (h : List HostAct) : (s.setHost h).seq = s.seq := rfl
@[simp] theorem State.setHost_busy (h : List HostAct) : (s.setHost h).busy = s.busy := rfl
@[simp] theorem State.setHost_host (h : List HostAct) : (s.setHost h).host = h := rfl
@[simp] theorem State.setHost_readLog (h : List HostAct) : (s.setHost h).readLog = s.readLog := rfl
@[simp] theorem State.setHost_fresh (h : List HostAct) : (s.setHost h).fresh = s.fresh := rfl
@[simp] theorem State.setHost_far (h : List HostAct) : (s.setHost h).far = s.far := rfl
@[simp] theorem State.setHost_events (h : List HostAct) : (s.setHost h).events = s.events := rfl

@[simp] theorem State.setFar_ch (f : FarSide) : (s.setFar f).ch = s.ch := rfl
@[simp] theorem State.setFar_res0 (f : FarSide) : (s.setFar f).res0 = s.res0 := rfl
@[simp] theorem State.setFar_res1 (f : FarSide) : (s.setFar f).res1 = s.res1 := rfl
@[simp] theorem State.setFar_res2 (f : FarSide) : (s.setFar f).res2 = s.res2 := rfl
@[simp] theorem State.setFar_res3 (f : FarSide) : (s.setFar f).res3 = s.res3 := rfl
@[simp] theorem State.setFar_code (f : FarSide) : (s.setFar f).code = s.code := rfl
@[simp] theorem State.setFar_errMin (f : FarSide) : (s.setFar f).errMin = s.errMin := rfl
@[simp] theorem State.setFar_errMax (f : FarSide) : (s.setFar f).errMax = s.errMax := rfl
@[simp] theorem State.setFar_errVal (f : FarSide) : (s.setFar f).errVal = s.errVal := rfl
@[simp] theorem State.setFar_errBus (f : FarSide) : (s.setFar f).errBus = s.errBus := rfl
@[simp] theorem State.setFar_ctlValid (f : FarSide) : (s.setFar f).ctlValid = s.ctlValid := rfl
@[simp] theorem State.setFar_seq (f : FarSide) : (s.setFar f).seq = s.seq := rfl
@[simp] theorem State.setFar_busy (f : FarSide) : (s.setFar f).busy = s.busy := rfl
@[simp] theorem State.setFar_host (f : FarSide) : (s.setFar f).host = s.host := rfl
@[simp] theorem State.setFar_readLog (f : FarSide) : (s.setFar f).readLog = s.readLog := rfl
@[simp] theorem State.setFar_fresh (f : FarSide) : (s.setFar f).fresh = s.fresh := rfl
@[simp] theorem State.setFar_far (f : FarSide) : (s.setFar f).far = f := rfl
@[simp] theorem State.setFar_events (f : FarSide) : (s.setFar f).events = s.events := rfl

@[simp] theorem State.log_ch (e : Event) : (s.log e).ch = s.ch := rfl
@[simp] theorem State.log_res0 (e : Event) : (s.log e).res0 = s.res0 := rfl
@[simp] theorem State.log_res1 (e : Event) : (s.log e).res1 = s.res1 := rfl
@[simp] theorem State.log_res2 (e : Event) : (s.log e).res2 = s.res2 := rfl
@[simp] theorem State.log_res3 (e : Event) : (s.log e).res3 = s.res3 := rfl
@[simp] theorem State.log_code (e : Event) : (s.log e).code = s.code := rfl
@[simp] theorem State.log_errMin (e : Event) : (s.log e).errMin = s.errMin := rfl
@[simp] theorem State.log_errMax (e : Event) : (s.log e).errMax = s.errMax := rfl
@[simp] theorem State.log_errVal (e : Event) : (s.log e).errVal = s.errVal := rfl
@[simp] theorem State.log_errBus (e : Event) : (s.log e).errBus = s.errBus := rfl
@[simp] theorem State.log_ctlValid (e : Event) : (s.log e).ctlValid = s.ctlValid := rfl
@[simp] theorem State.log_seq (e : Event) : (s.log e).seq = s.seq := rfl
@[simp] theorem State.log_busy (e : Event) : (s.log e).busy = s.busy := rfl
@[simp] theorem State.log_host (e : Event) : (s.log e).host = s.host := rfl
@[simp] theorem State.log_readLog (e : Event) : (s.log e).readLog = s.readLog := rfl
@[simp] theorem State.log_fresh (e : Event) : (s.log e).fresh = s.fresh := rfl
@[simp] theorem State.log_far (e : Event) : (s.log e).far = s.far := rfl
@[simp] theorem State.log_events (e : Event) : (s.log e).events = s.events ++ [e] := rfl

@[simp] theorem State.logRead_ch (n : Nat) (v : Word32) : (s.logRead n v).ch = s.ch := rfl
@[simp] theorem State.logRead_res0 (n : Nat) (v : Word32) : (s.logRead n v).res0 = s.res0 := rfl
@[simp] theorem State.logRead_res1 (n : Nat) (v : Word32) : (s.logRead n v).res1 = s.res1 := rfl
@[simp] theorem State.logRead_res2 (n : Nat) (v : Word32) : (s.logRead n v).res2 = s.res2 := rfl
@[simp] theorem State.logRead_res3 (n : Nat) (v : Word32) : (s.logRead n v).res3 = s.res3 := rfl
@[simp] theorem State.logRead_code (n : Nat) (v : Word32) : (s.logRead n v).code = s.code := rfl
@[simp] theorem State.logRead_errMin (n : Nat) (v : Word32) : (s.logRead n v).errMin = s.errMin := rfl
@[simp] theorem State.logRead_errMax (n : Nat) (v : Word32) : (s.logRead n v).errMax = s.errMax := rfl
@[simp] theorem State.logRead_errVal (n : Nat) (v : Word32) : (s.logRead n v).errVal = s.errVal := rfl
@[simp] theorem State.logRead_errBus (n : Nat) (v : Word32) : (s.logRead n v).errBus = s.errBus := rfl
@[simp] theorem State.logRead_ctlValid (n : Nat) (v : Word32) : (s.logRead n v).ctlValid = s.ctlValid := rfl
@[simp] theorem State.logRead_seq (n : Nat) (v : Word32) : (s.logRead n v).seq = s.seq := rfl
@[simp] theorem State.logRead_busy (n : Nat) (v : Word32) : (s.logRead n v).busy = s.busy := rfl
@[simp] theorem State.logRead_host (n : Nat) (v : Word32) : (s.logRead n v).host = s.host := rfl
@[simp] theorem State.logRead_readLog (n : Nat) (v : Word32) : (s.logRead n v).readLog = s.readLog ++ [(n, v)] := rfl
@[simp] theorem State.logRead_fresh (n : Nat) (v : Word32) : (s.logRead n v).fresh = s.fresh := rfl
@[simp] theorem State.logRead_far (n : Nat) (v : Word32) : (s.logRead n v).far = s.far := rfl
@[simp] theorem State.logRead_events (n : Nat) (v : Word32) : (s.logRead n v).events = s.events := rfl

@[simp] theorem State.draw_ch : (s.draw).ch = s.ch := rfl
@[simp] theorem State.draw_res0 : (s.draw).res0 = s.res0 := rfl
@[simp] theorem State.draw_res1 : (s.draw).res1 = s.res1 := rfl
@[simp] theorem State.draw_res2 : (s.draw).res2 = s.res2 := rfl
@[simp] theorem State.draw_res3 : (s.draw).res3 = s.res3 := rfl
@[simp] theorem State.draw_code : (s.draw).code = s.code := rfl
@[simp] theorem State.draw_errMin : (s.draw).errMin = s.errMin := rfl
@[simp] theorem State.draw_errMax : (s.draw).errMax = s.errMax := rfl
@[simp] theorem State.draw_errVal : (s.draw).errVal = s.errVal := rfl
@[simp] theorem State.draw_errBus : (s.draw).errBus = s.errBus := rfl
@[simp] theorem State.draw_ctlValid : (s.draw).ctlValid = s.ctlValid := rfl
@[simp] theorem State.draw_seq : (s.draw).seq = s.seq := rfl
@[simp] theorem State.draw_busy : (s.draw).busy = s.busy := rfl
@[simp] theorem State.draw_host : (s.draw).host = s.host := rfl
@[simp] theorem State.draw_readLog : (s.draw).readLog = s.readLog := rfl
@[simp] theorem State.draw_fresh : (s.draw).fresh = s.fresh + 1 := rfl
@[simp] theorem State.draw_far : (s.draw).far = s.far := rfl
@[simp] theorem State.draw_events : (s.draw).events = s.events := rfl

@[simp] theorem State.toIdle_ch : (s.toIdle).ch = s.ch := rfl
@[simp] theorem State.toIdle_res0 : (s.toIdle).res0 = s.res0 := rfl
@[simp] theorem State.toIdle_res1 : (s.toIdle).res1 = s.res1 := rfl
@[simp] theorem State.toIdle_res2 : (s.toIdle).res2 = s.res2 := rfl
@[simp] theorem State.toIdle_res3 : (s.toIdle).res3 = s.res3 := rfl
@[simp] theorem State.toIdle_code : (s.toIdle).code = s.code := rfl
@[simp] theorem State.toIdle_errMin : (s.toIdle).errMin = s.errMin := rfl
@[simp] theorem State.toIdle_errMax : (s.toIdle).errMax = s.errMax := rfl
@[simp] theorem State.toIdle_errVal : (s.toIdle).errVal = s.errVal := rfl
@[simp] theorem State.toIdle_errBus : (s.toIdle).errBus = s.errBus := rfl
@[simp] theorem State.toIdle_ctlValid : (s.toIdle).ctlValid = s.ctlValid := rfl
@[simp] theorem State.toIdle_seq : (s.toIdle).seq = Sequencer.idle := rfl
@[simp] theorem State.toIdle_busy : (s.toIdle).busy = false := rfl
@[simp] theorem State.toIdle_host : (s.toIdle).host = s.host := rfl
@[simp] theorem State.toIdle_readLog : (s.toIdle).readLog = s.readLog := rfl
@[simp] theorem State.toIdle_fresh : (s.toIdle).fresh = s.fresh := rfl
@[simp] theorem State.toIdle_far : (s.toIdle).far = s.far := rfl
@[simp] theorem State.toIdle_events : (s.toIdle).events = s.events := rfl

@[simp] theorem State.complete_ch : (s.complete).ch = s.ch := rfl
@[simp] theorem State.complete_res0 : (s.complete).res0 = s.res0 := rfl
@[simp] theorem State.complete_res1 : (s.complete).res1 = s.res1 := rfl
@[simp] theorem State.complete_res2 : (s.complete).res2 = s.res2 := rfl
@[simp] theorem State.complete_res3 : (s.complete).res3 = s.res3 := rfl
@[simp] theorem State.complete_code : (s.complete).code = codeOk := rfl
@[simp] theorem State.complete_errMin : (s.complete).errMin = s.errMin := rfl
@[simp] theorem State.complete_errMax : (s.complete).errMax = s.errMax := rfl
@[simp] theorem State.complete_errVal : (s.complete).errVal = s.errVal := rfl
@[simp] theorem State.complete_errBus : (s.complete).errBus = s.errBus := rfl
@[simp] theorem State.complete_ctlValid : (s.complete).ctlValid = s.ctlValid := rfl
@[simp] theorem State.complete_seq : (s.complete).seq = Sequencer.idle := rfl
@[simp] theorem State.complete_busy : (s.complete).busy = false := rfl
@[simp] theorem State.complete_host : (s.complete).host = s.host := rfl
@[simp] theorem State.complete_readLog : (s.complete).readLog = s.readLog := rfl
@[simp] theorem State.complete_fresh : (s.complete).fresh = s.fresh := rfl
@[simp] theorem State.complete_far : (s.complete).far = s.far := rfl
@[simp] theorem State.complete_events : (s.complete).events = s.events := rfl

@[simp] theorem State.setErrors_ch (x : Exn) : (s.setErrors x).ch = s.ch := by cases x <;> rfl
@[simp] theorem State.setErrors_res0 (x : Exn) : (s.setErrors x).res0 = s.res0 := by cases x <;> rfl
@[simp] theorem State.setErrors_res1 (x : Exn) : (s.setErrors x).res1 = s.res1 := by cases x <;> rfl
@[simp] theorem State.setErrors_res2 (x : Exn) : (s.setErrors x).res2 = s.res2 := by cases x <;> rfl
@[simp] theorem State.setErrors_res3 (x : Exn) : (s.setErrors x).res3 = s.res3 := by cases x <;> rfl
@[simp] theorem State.setErrors_code (x : Exn) : (s.setErrors x).code = s.code := by cases x <;> rfl
@[simp] theorem State.setErrors_ctlValid (x : Exn) : (s.setErrors x).ctlValid = s.ctlValid := by cases x <;> rfl
@[simp] theorem State.setErrors_seq (x : Exn) : (s.setErrors x).seq = s.seq := by cases x <;> rfl
@[simp] theorem State.setErrors_busy (x : Exn) : (s.setErrors x).busy = s.busy := by cases x <;> rfl
@[simp] theorem State.setErrors_host (x : Exn) : (s.setErrors x).host = s.host := by cases x <;> rfl
@[simp] theorem State.setErrors_readLog (x : Exn) : (s.setErrors x).readLog = s.readLog := by cases x <;> rfl
@[simp] theorem State.setErrors_fresh (x : Exn) : (s.setErrors x).fresh = s.fresh := by cases x <;> rfl
@[simp] theorem State.setErrors_far (x : Exn) : (s.setErrors x).far = s.far := by cases x <;> rfl
@[simp] theorem State.setErrors_events (x : Exn) : (s.setErrors x).events = s.events := by cases x <;> rfl

@[simp] theorem State.raise_ch (x : Exn) : (s.raise x).ch = s.ch := by cases x <;> rfl
@[simp] theorem State.raise_res0 (x : Exn) : (s.raise x).res0 = s.res0 := by cases x <;> rfl
@[simp] theorem State.raise_res1 (x : Exn) : (s.raise x).res1 = s.res1 := by cases x <;> rfl
@[simp] theorem State.raise_res2 (x : Exn) : (s.raise x).res2 = s.res2 := by cases x <;> rfl
@[simp] theorem State.raise_res3 (x : Exn) : (s.raise x).res3 = s.res3 := by cases x <;> rfl
@[simp] theorem State.raise_code (x : Exn) : (s.raise x).code = x.code := by cases x <;> rfl
@[simp] theorem State.raise_ctlValid (x : Exn) : (s.raise x).ctlValid = s.ctlValid := by cases x <;> rfl
@[simp] theorem State.raise_seq (x : Exn) : (s.raise x).seq = Sequencer.idle := by cases x <;> rfl
@[simp] theorem State.raise_busy (x : Exn) : (s.raise x).busy = false := by cases x <;> rfl
@[simp] theorem State.raise_host (x : Exn) : (s.raise x).host = s.host := by cases x <;> rfl
@[simp] theorem State.raise_readLog (x : Exn) : (s.raise x).readLog = s.readLog := by cases x <;> rfl
@[simp] theorem State.raise_fresh (x : Exn) : (s.raise x).fresh = s.fresh := by cases x <;> rfl
@[simp] theorem State.raise_far (x : Exn) : (s.raise x).far = s.far := by cases x <;> rfl
@[simp] theorem State.raise_events (x : Exn) : (s.raise x).events = s.events := by cases x <;> rfl

/-- The error registers after an exception (R166b), field by field. -/
theorem State.raise_errors (x : Exn) :
    (s.raise x).errMin = (s.setErrors x).errMin ∧ (s.raise x).errMax = (s.setErrors x).errMax ∧
      (s.raise x).errVal = (s.setErrors x).errVal ∧ (s.raise x).errBus = (s.setErrors x).errBus :=
  ⟨rfl, rfl, rfl, rfl⟩

/-- Two states with equal fields are equal. -/
theorem State.ext_fields (s t : State) (h : (s.ch, s.res0, s.res1, s.res2, s.res3, s.code, s.errMin, s.errMax, s.errVal) =
      (t.ch, t.res0, t.res1, t.res2, t.res3, t.code, t.errMin, t.errMax, t.errVal))
    (g : (s.errBus, s.ctlValid, s.seq, s.busy, s.host, s.readLog, s.fresh, s.far, s.events) =
      (t.errBus, t.ctlValid, t.seq, t.busy, t.host, t.readLog, t.fresh, t.far, t.events)) : s = t := by
  cases s
  cases t
  simp_all

end Sys2Proof.Machine
end

