-- ==== Sys2Proof/Laws/Sequencer.lean ====
section
/-! SUPPORT. What one step of the sequencer can do, and the induction over its steps. -/

namespace Sys2Proof.Machine

/-- Everything a sequencer step that goes on or stops can have done: it waits for the far side, took an exception, or
completed a row. -/
theorem seqStep_cases (s : State) {p : Progress} (h : seqStep s = p) :
    (p = .noRow ∧ s.seq.action = none) ∨
    (∃ f, p = .stopped (s.setFar f) ∧ f.creg = s.far.creg) ∨
    (∃ a e, s.seq.action = some (.read a) ∧
      p = .stopped (((s.setFar (s.far.read a).2).log (.rdErr a e)).raise (.transport e))) ∨
    (∃ a v e, s.seq.action = some (.write a v) ∧
      p = .stopped (((s.setFar (s.far.write a v).2).log (.wrErr a v e)).raise (.transport e))) ∨
    (∃ a b, s.seq.action = some (.read a) ∧
      p = (((s.setFar (s.far.read a).2).log (.rd a b)).setSeq (s.seq.latch b)).advance) ∨
    (∃ a v, s.seq.action = some (.write a v) ∧ (s.far.write a v).2.creg = Memory.write s.far.creg a v ∧
      p = ((s.setFar (s.far.write a v).2).log (.wr a v)).advance) ∨
    (s.seq.action = some .wait ∧ p = ((s.setFar s.far.waitGoesOn.2).log (.wait Config.settleMs)).advance) ∨
    (s.seq.action = some .compute ∧ p = s.advance) := by
  subst h
  cases ha : s.seq.action with
  | none => exact .inl ⟨by simp [seqStep, ha], rfl⟩
  | some act =>
    right
    cases act with
    | read a =>
      simp only [seqStep, ha]
      rcases hr : s.far.read a with ⟨_ | ⟨e | b⟩, f⟩
      · exact .inl ⟨f, rfl, by simpa [hr] using s.far.read_creg a⟩
      · exact .inr (.inl ⟨a, e, rfl, by rw [hr]; rfl⟩)
      · exact .inr (.inr (.inr (.inl ⟨a, b, rfl, by rw [hr]; rfl⟩)))
    | write a v =>
      simp only [seqStep, ha]
      rcases hr : s.far.write a v with ⟨_ | ⟨e | u⟩, f⟩
      · refine .inl ⟨f, rfl, ?_⟩
        have : f.creg = s.far.creg := by
          simp only [FarSide.write] at hr
          split at hr <;>
            simp only [Prod.mk.injEq, reduceCtorEq, false_and, true_and] at hr <;> subst hr <;> simp
        exact this
      · exact .inr (.inr (.inl ⟨a, v, e, rfl, by rw [hr]; rfl⟩))
      · exact .inr (.inr (.inr (.inr (.inl ⟨a, v, rfl, by rw [hr]; exact FarSide.write_ok_creg hr, by rw [hr]; rfl⟩))))
    | wait =>
      simp only [seqStep, ha]
      rcases hw : s.far.waitGoesOn with ⟨_ | _, f⟩
      · exact .inr (.inr (.inr (.inr (.inr (.inl ⟨trivial, by simp [State.gotWait]⟩)))))
      · exact .inl ⟨f, rfl, by simpa [hw] using s.far.waitGoesOn_creg⟩
    | compute =>
      exact .inr (.inr (.inr (.inr (.inr (.inr ⟨rfl, by simp [seqStep, ha]⟩)))))

/-- The induction over the sequencer's steps: what every step hands on holds of the state the run ends in. -/
theorem runSeq_induct {P Q : State → Prop}
    (hrun : ∀ s t, P s → seqStep s = .running t → P t)
    (hstop : ∀ s t, P s → seqStep s = .stopped t → Q t)
    (hpause : ∀ s, P s → Q s)
    (n : Nat) (s t : State) (hs : P s) (h : runSeq n s = .next t) : Q t := by
  induction n generalizing s with
  | zero =>
    simp only [runSeq, Host.Outcome.next.injEq] at h
    exact h ▸ hpause s hs
  | succ n ih =>
    simp only [runSeq] at h
    split at h
    · exact ih _ (hrun _ _ hs ‹_›) h
    · cases h
      exact hstop _ _ hs ‹_›
    · cases h

/-- A run faults only in a state that stands in no row. -/
theorem runSeq_no_fault {P : State → Prop} (hrow : ∀ s, P s → s.seq.action ≠ none)
    (hrun : ∀ s t, P s → seqStep s = .running t → P t) (n : Nat) (s : State) (hs : P s) :
    ∃ t, runSeq n s = .next t := by
  induction n generalizing s with
  | zero => exact ⟨s, rfl⟩
  | succ n ih =>
    simp only [runSeq]
    cases hp : seqStep s with
    | running t => exact ih t (hrun _ _ hs hp)
    | stopped t => exact ⟨t, rfl⟩
    | noRow =>
      rcases seqStep_cases s hp with ⟨_, h⟩ | ⟨_, h, _⟩ | ⟨_, _, _, h⟩ | ⟨_, _, _, _, h⟩ | ⟨_, _, _, h⟩ | ⟨_, _, _, _, h⟩ |
        ⟨_, h⟩ | ⟨_, h⟩
      · exact absurd h (hrow s hs)
      all_goals first
        | cases h
        | (simp only [State.advance] at h; split at h <;> cases h)

/-- A row answers `noRow` only where no table has one. -/
theorem advance_cases (s : State) :
    (s.seq.step.toNat = s.seq.op.last ∧ s.advance = .stopped s.commit.complete) ∨
    (s.seq.step.toNat ≠ s.seq.op.last ∧ s.advance = .running (s.setSeq { s.seq with step := s.seq.step + 1 })) := by
  by_cases h : s.seq.step.toNat = s.seq.op.last <;> simp [State.advance, h]

/-- A command without bus access always answers a next state. -/
theorem settle_ok {s t : State} : s.settle (.ok t) = t.complete := rfl

theorem settle_error {s : State} {x : Exn} : s.settle (.error x) = s.raise x := rfl

theorem begin_ok {s : State} {q : Sequencer} :
    s.begin (.ok q) = runSeq seqFuel ((s.setSeq q).setBusy true) := rfl

theorem begin_error {s : State} {x : Exn} : s.begin (.error x) = .next (s.raise x) := rfl

end Sys2Proof.Machine
end

