-- ==== Sys2Proof/Laws/Exec.lean ====
section
/-! SUPPORT. Everything a command can do, said once: it takes an exception, or it computes and completes, or it starts the
sequencer. -/

namespace Sys2Proof.Machine

/-- What a command with no bus access has computed before it completes (R26, R23). -/
def Computes (i : Instr) (s t : State) : Prop :=
  match i with
  | .mkled slot _ => ∃ n : Fin Config.nslot, ∃ c, slot.toNat = n.val ∧ c.valid = true ∧ c.Sound ∧ t = s.setSlot n c
  | .mkservo slot _ _ _ => ∃ n : Fin Config.nslot, ∃ c, slot.toNat = n.val ∧ c.valid = true ∧ c.Sound ∧ t = s.setSlot n c
  | .addr slot => ∃ c, s.HasSlot slot c ∧ t = s.setRes (half (quad c.index).onLow) (half (quad c.index).onHigh)
      (half (quad c.index).offLow) (half (quad c.index).offHigh)
  | .chidx _ => ∃ v, t = s.setRes0 v
  | .regoff _ _ => ∃ v, t = s.setRes0 v
  | .calcps _ => ∃ v, t = s.setRes0 v
  | .d2p _ _ => ∃ v, t = s.setRes0 v
  | .p2d _ _ => ∃ v, t = s.setRes0 v
  | .rdch _ => False
  | .wrch _ _ _ _ _ => False
  | .init => False
  | .setrate _ => False
  | .setch _ _ _ => False
  | .setall _ _ => False

/-- In which state a command starts the sequencer, and with which operands (R109, R123, R126, R131). -/
def Starts (i : Instr) (s t : State) (q : Sequencer) : Prop :=
  match i with
  | .rdch slot => ∃ c, s.HasSlot slot c ∧ t = s ∧ q = .start .rdch c.index 0 0 0 0
  | .wrch slot d0 d1 d2 d3 => ∃ c, s.HasSlot slot c ∧ t = s ∧ q = .start .wrch c.index d0 d1 d2 d3
  | .setch slot on off => s.ctlValid = true ∧ ∃ c, s.HasSlot slot c ∧ t = s ∧
      q = .start .wrch c.index (lo on) (hi on) (lo off) (hi off)
  | .setall on off => s.ctlValid = true ∧ t = s ∧ q = .start .setall 0 (lo on) (hi on) (lo off) (hi off)
  | .setrate p => s.ctlValid = true ∧ t = s ∧ q = .start .setrate 0 p 0 0 0
  | .init => t = s.setCtl false ∧ q = .start .init 0 0 0 0 0
  | .mkled _ _ => False
  | .mkservo _ _ _ _ => False
  | .addr _ => False
  | .chidx _ => False
  | .regoff _ _ => False
  | .calcps _ => False
  | .d2p _ _ => False
  | .p2d _ _ => False

/-- The codes of the exceptions raised before the first access are those of the command's row, never OK or TRANSPORT. -/
def RaisesFor (i : Instr) (x : Exn) : Prop := x.code ∈ mayReport i ∧ x.code ≠ 0 ∧ x.code ≠ 5 ∧ i ≠ .init

/-- `requireCtl` in its two cases (R120). -/
theorem requireCtl_cases (s : State) :
    (s.ctlValid = true ∧ requireCtl s = .ok ()) ∨ (s.ctlValid = false ∧ requireCtl s = .error .noController) := by
  cases h : s.ctlValid <;> simp [requireCtl, h]

theorem useSlot_cases (s : State) (slot : Byte) :
    (∃ c, s.HasSlot slot c ∧ useSlot s slot = .ok c) ∨ (s.NoSlot slot ∧ useSlot s slot = .error .badSlot) := by
  cases h : useSlot s slot with
  | ok c => exact .inl ⟨c, hasSlot_of_useSlot h, rfl⟩
  | error x =>
    refine .inr ⟨noSlot_iff.2 fun c hc => ?_, by rw [useSlot_error h]⟩
    rw [useSlot_ok hc] at h
    cases h

theorem newSlot_cases (slot : Byte) :
    (∃ h : slot.toNat < Config.nslot, newSlot slot = .ok ⟨slot.toNat, h⟩) ∨
      (Config.nslot ≤ slot.toNat ∧ newSlot slot = .error .badSlot) := by
  by_cases h : slot.toNat < Config.nslot
  · exact .inl ⟨h, newSlot_ok h⟩
  · exact .inr ⟨Nat.not_lt.1 h, newSlot_bad (Nat.not_lt.1 h)⟩

theorem checkIndex_cases (index : Half) :
    (index.toNat ≤ 15 ∧ checkIndex index = .ok (index.setWidth 4)) ∨
      (15 < index.toNat ∧ checkIndex index = .error (.rangeIndex 0 15 index.toNat)) := by
  by_cases h : index.toNat ≤ 15
  · exact .inl ⟨h, checkIndex_ok h⟩
  · exact .inr ⟨Nat.not_le.1 h, checkIndex_bad (Nat.not_le.1 h)⟩

/-- The ServoSettings checks: passed, or a RangeSettings (R141). -/
theorem checkSettings_cases (mn mx : Half) :
    (mn.toNat ≤ 4095 ∧ mx.toNat ≤ 4095 ∧ mn.toNat ≤ mx.toNat ∧ checkSettings mn mx = .ok ()) ∨
      ∃ a b c, checkSettings mn mx = .error (.rangeSettings a b c) := by
  by_cases h1 : mn.toNat > 4095
  · exact .inr ⟨_, _, _, by simp only [checkSettings, Config.tickMax, h1, if_true]; rfl⟩
  by_cases h2 : mx.toNat > 4095
  · exact .inr ⟨_, _, _, by simp only [checkSettings, Config.tickMax, h1, h2, if_true, if_false]; rfl⟩
  by_cases h3 : mn.toNat > mx.toNat
  · exact .inr ⟨_, _, _, by simp only [checkSettings, Config.tickMax, h1, h2, h3, if_true, if_false]; rfl⟩
  · exact .inl ⟨by omega, by omega, by omega, by simp only [checkSettings, Config.tickMax, h1, h2, h3, if_false]⟩

/-- Everything a command can do. -/
theorem exec_cases (i : Instr) (s : State) :
    (∃ x, exec i s = .next (s.raise x) ∧ RaisesFor i x) ∨
    (∃ t, exec i s = .next t.complete ∧ Computes i s t) ∨
    (∃ t q, exec i s = runSeq seqFuel ((t.setSeq q).setBusy true) ∧ Starts i s t q) := by
  cases i with
  | mkled slot index =>
    rcases newSlot_cases slot with ⟨hn, h1⟩ | ⟨-, h1⟩
    · rcases checkIndex_cases index with ⟨-, h2⟩ | ⟨-, h2⟩
      · exact .inr (.inl ⟨_, by simp only [exec, execMkled, h1, h2]; rfl, ⟨slot.toNat, hn⟩, _, rfl, rfl,
          by simp [Slot.Sound], rfl⟩)
      · exact .inl ⟨_, by simp only [exec, execMkled, h1, h2]; rfl, by simp [RaisesFor, Exn.code, mayReport]⟩
    · exact .inl ⟨_, by simp only [exec, execMkled, h1]; rfl, by simp [RaisesFor, Exn.code, mayReport]⟩
  | chidx slot =>
    rcases useSlot_cases s slot with ⟨c, -, h⟩ | ⟨-, h⟩
    · exact .inr (.inl ⟨_, by simp only [exec, execChidx, h]; rfl, _, rfl⟩)
    · exact .inl ⟨_, by simp only [exec, execChidx, h]; rfl, by simp [RaisesFor, Exn.code, mayReport]⟩
  | regoff slot base =>
    rcases useSlot_cases s slot with ⟨c, -, h⟩ | ⟨-, h⟩
    · exact .inr (.inl ⟨_, by simp only [exec, execRegoff, h]; rfl, _, rfl⟩)
    · exact .inl ⟨_, by simp only [exec, execRegoff, h]; rfl, by simp [RaisesFor, Exn.code, mayReport]⟩
  | addr slot =>
    rcases useSlot_cases s slot with ⟨c, hc, h⟩ | ⟨-, h⟩
    · exact .inr (.inl ⟨_, by simp only [exec, execAddr, h]; rfl, c, hc, rfl⟩)
    · exact .inl ⟨_, by simp only [exec, execAddr, h]; rfl, by simp [RaisesFor, Exn.code, mayReport]⟩
  | rdch slot =>
    rcases useSlot_cases s slot with ⟨c, hc, h⟩ | ⟨-, h⟩
    · exact .inr (.inr ⟨s, _, by simp only [exec, execRdch, h]; rfl, c, hc, rfl, rfl⟩)
    · exact .inl ⟨_, by simp only [exec, execRdch, h]; rfl, by simp [RaisesFor, Exn.code, mayReport]⟩
  | wrch slot d0 d1 d2 d3 =>
    rcases useSlot_cases s slot with ⟨c, hc, h⟩ | ⟨-, h⟩
    · exact .inr (.inr ⟨s, _, by simp only [exec, execWrch, h]; rfl, c, hc, rfl, rfl⟩)
    · exact .inl ⟨_, by simp only [exec, execWrch, h]; rfl, by simp [RaisesFor, Exn.code, mayReport]⟩
  | init => exact .inr (.inr ⟨_, _, rfl, rfl, rfl⟩)
  | setrate p =>
    rcases requireCtl_cases s with ⟨hv, h⟩ | ⟨-, h⟩
    · exact .inr (.inr ⟨s, _, by simp only [exec, execSetrate, h]; rfl, hv, rfl, rfl⟩)
    · exact .inl ⟨_, by simp only [exec, execSetrate, h]; rfl, by simp [RaisesFor, Exn.code, mayReport]⟩
  | calcps rate =>
    by_cases h : rate.toInt ≤ 0
    · exact .inl ⟨_, by simp only [exec, execCalcps, h, if_true]; rfl, by simp [RaisesFor, Exn.code, mayReport]⟩
    · exact .inr (.inl ⟨_, by simp only [exec, execCalcps, h, if_false]; rfl, _, rfl⟩)
  | setch slot on off =>
    rcases requireCtl_cases s with ⟨hv, h⟩ | ⟨-, h⟩
    · rcases useSlot_cases s slot with ⟨c, hc, h'⟩ | ⟨-, h'⟩
      · exact .inr (.inr ⟨s, _, by simp only [exec, execSetch, h, h']; rfl, hv, c, hc, rfl, rfl⟩)
      · exact .inl ⟨_, by simp only [exec, execSetch, h, h']; rfl, by simp [RaisesFor, Exn.code, mayReport]⟩
    · exact .inl ⟨_, by simp only [exec, execSetch, h]; rfl, by simp [RaisesFor, Exn.code, mayReport]⟩
  | setall on off =>
    rcases requireCtl_cases s with ⟨hv, h⟩ | ⟨-, h⟩
    · exact .inr (.inr ⟨s, _, by simp only [exec, execSetall, h]; rfl, hv, rfl, rfl⟩)
    · exact .inl ⟨_, by simp only [exec, execSetall, h]; rfl, by simp [RaisesFor, Exn.code, mayReport]⟩
  | mkservo slot index mn mx =>
    rcases newSlot_cases slot with ⟨hn, h1⟩ | ⟨-, h1⟩
    · rcases checkIndex_cases index with ⟨-, h2⟩ | ⟨-, h2⟩
      · rcases checkSettings_cases mn mx with ⟨ha, hb, hle, h3⟩ | ⟨_, _, _, h3⟩
        · refine .inr (.inl ⟨_, by simp only [exec, execMkservo, h1, h2, h3]; rfl, ⟨slot.toNat, hn⟩, _, rfl, rfl, ?_, rfl⟩)
          refine ⟨by simp, by simp, fun _ => ?_⟩
          simp only [BitVec.toNat_setWidth]
          omega
        · exact .inl ⟨_, by simp only [exec, execMkservo, h1, h2, h3]; rfl, by simp [RaisesFor, Exn.code, mayReport]⟩
      · exact .inl ⟨_, by simp only [exec, execMkservo, h1, h2]; rfl, by simp [RaisesFor, Exn.code, mayReport]⟩
    · exact .inl ⟨_, by simp only [exec, execMkservo, h1]; rfl, by simp [RaisesFor, Exn.code, mayReport]⟩
  | d2p slot angle =>
    rcases servoSlot_cases s slot with ⟨c, -, -, h⟩ | h | h
    · by_cases hr : angle.toInt < -90 ∨ angle.toInt > 90
      · exact .inl ⟨_, by simp only [exec, execD2p, h, bind, Except.bind, hr, if_true]; rfl,
          by simp [RaisesFor, Exn.code, mayReport]⟩
      · exact .inr (.inl ⟨_, by simp only [exec, execD2p, h, bind, Except.bind, hr, if_false]; rfl, _, rfl⟩)
    · exact .inl ⟨_, by simp only [exec, execD2p, h]; rfl, by simp [RaisesFor, Exn.code, mayReport]⟩
    · exact .inl ⟨_, by simp only [exec, execD2p, h]; rfl, by simp [RaisesFor, Exn.code, mayReport]⟩
  | p2d slot ticks =>
    rcases servoSlot_cases s slot with ⟨c, -, -, h⟩ | h | h
    · by_cases hr : ticks.toNat < c.minTick.toNat ∨ ticks.toNat > c.maxTick.toNat
      · exact .inl ⟨_, by simp only [exec, execP2d, h, bind, Except.bind, hr, if_true]; rfl,
          by simp [RaisesFor, Exn.code, mayReport]⟩
      · by_cases hz : c.maxTick.toNat - c.minTick.toNat = 0
        · exact .inl ⟨_, by simp only [exec, execP2d, h, bind, Except.bind, hr, hz, if_true, if_false]; rfl,
            by simp [RaisesFor, Exn.code, mayReport]⟩
        · exact .inr (.inl ⟨_, by simp only [exec, execP2d, h, bind, Except.bind, hr, hz, if_false]; rfl, _, rfl⟩)
    · exact .inl ⟨_, by simp only [exec, execP2d, h]; rfl, by simp [RaisesFor, Exn.code, mayReport]⟩
    · exact .inl ⟨_, by simp only [exec, execP2d, h]; rfl, by simp [RaisesFor, Exn.code, mayReport]⟩

end Sys2Proof.Machine
end

