-- ==== Sys2Proof/Laws/HostPort.lean ====
section
/-! SUPPORT. The fields of `STATUS` as the host reads it (R28, R40), and what a read can return while `busy` = 1. -/

namespace Sys2Proof.Machine

/-- `STATUS` bit by bit (R40). -/
theorem getLsbD_statusWord (b : Bool) (c : Byte) (i : Nat) :
    (statusWord b c).getLsbD i = if i < 8 then c.getLsbD i else if i = 8 then b else false := by
  simp only [statusWord, bit, BitVec.getLsbD_append, BitVec.getLsbD_ofBool, BitVec.getLsbD_zero]
  split_ifs <;> simp_all
  omega

/-- `busy` is bit 8 of `STATUS` (R40). -/
theorem statusWord_busy (b : Bool) (c : Byte) : (statusWord b c).getLsbD 8 = b := by
  rw [getLsbD_statusWord, if_neg (by decide), if_pos rfl]

/-- The bits of `STATUS` above `busy` are zero (R28, C12). -/
theorem statusWord_high (b : Bool) (c : Byte) : (statusWord b c).extractLsb' 9 23 = 0 := by
  apply BitVec.eq_of_getLsbD_eq
  intro i _
  rw [BitVec.getLsbD_extractLsb', getLsbD_statusWord, if_neg (by omega), if_neg (by omega)]
  simp

/-- While `busy` = 0, `STATUS` is the code (R28). -/
theorem statusWord_idle (c : Byte) : statusWord false c = c.setWidth 32 := by
  apply BitVec.eq_of_getLsbD_eq
  intro i hi
  rw [getLsbD_statusWord, BitVec.getLsbD_setWidth]
  split_ifs with h
  · simp [hi]
  · simp [BitVec.getLsbD_of_ge c i (by omega)]
  · simp [BitVec.getLsbD_of_ge c i (by omega)]

/-- The numbers that name a register (R40). -/
theorem isReg_iff (n : Nat) : isReg n = true ↔ n ≤ 9 ∨ (16 ≤ n ∧ n < 32) := by
  simp [isReg, Config.nslot]

/-- Everything a read while `busy` = 1 can return (R36): `STATUS` with a free code, a free value, or 0. -/
theorem busyValue_cases (s : State) (n : Nat) :
    (n = 0 ∧ ∃ c, busyValue s n = statusWord true c) ∨ (n ≠ 0 ∧ isReg n = true) ∨ (isReg n = false ∧ busyValue s n = 0) := by
  by_cases h : n = 0
  · exact .inl ⟨h, _, by rw [busyValue, if_pos h]⟩
  · cases hr : isReg n with
    | true => exact .inr (.inl ⟨h, rfl⟩)
    | false => exact .inr (.inr ⟨rfl, by simp [busyValue, h, hr]⟩)

end Sys2Proof.Machine
end

