-- ==== Sys2Proof/Laws/Run.lean ====
section
/-! SUPPORT. What a run of the sequencer leaves: everything but the sequencer, the far side and the record of events stays
until it ends, and it ends in one of three ways. -/

namespace Sys2Proof.Machine

/-- Every access of a step table is in the lists of R70. -/
theorem action_allowed (q : Sequencer) :
    (∀ a, q.action = some (.read a) → mayRead a = true) ∧ (∀ a v, q.action = some (.write a v) → mayWrite a = true) := by
  have h6 := busAddr_regoff (by decide : 0x06 ≤ 9) q.index
  have h7 := busAddr_regoff (by decide : 0x07 ≤ 9) q.index
  have h8 := busAddr_regoff (by decide : 0x08 ≤ 9) q.index
  have h9 := busAddr_regoff (by decide : 0x09 ≤ 9) q.index
  have hi := q.index.isLt
  constructor
  · intro a h
    simp only [Sequencer.action] at h
    split at h <;> (try split at h) <;> simp only [Option.some.injEq, Action.read.injEq, reduceCtorEq] at h <;> subst h <;>
      first
        | rfl
        | (simp only [quad, mayRead, h6, h7, h8, h9, Bool.or_eq_true, Bool.and_eq_true, decide_eq_true_eq]
           exact .inr (by omega))
  · intro a v h
    simp only [Sequencer.action] at h
    split at h <;> (try split at h) <;> simp only [Option.some.injEq, Action.write.injEq, reduceCtorEq] at h <;>
      obtain ⟨rfl, -⟩ := h <;>
      first
        | rfl
        | (simp only [quad, mayWrite, h6, h7, h8, h9, Bool.or_eq_true, Bool.and_eq_true, decide_eq_true_eq]
           exact .inl (.inr (by omega)))

/-- Only the sequencer, the far side and the record of events differ. -/
def SeqFrame (s t : State) : Prop := t = { s with seq := t.seq, far := t.far, events := t.events }

theorem SeqFrame.refl (s : State) : SeqFrame s s := rfl

theorem SeqFrame.trans {s t u : State} (h : SeqFrame s t) (g : SeqFrame t u) : SeqFrame s u := by
  unfold SeqFrame at h g ⊢
  rw [h] at g
  exact g

/-- What a step that goes on has done. -/
theorem seqStep_running {s t : State} (h : seqStep s = .running t) :
    SeqFrame s t ∧ t.seq.op = s.seq.op ∧ t.seq.step = s.seq.step + 1 ∧ s.seq.step.toNat ≠ s.seq.op.last ∧
      ∃ evs, t.events = s.events ++ evs ∧ ∀ ev ∈ evs, ev.error = none ∧ ev.allowed = true := by
  have ok := action_allowed s.seq
  have latch_op : ∀ b, (s.seq.latch b).op = s.seq.op := fun b => by
    simp only [Sequencer.latch]; split <;> (try split) <;> simp_all
  have latch_step : ∀ b, (s.seq.latch b).step = s.seq.step := fun b => by
    simp only [Sequencer.latch]; split <;> (try split) <;> rfl
  rcases seqStep_cases s h with ⟨h, -⟩ | ⟨_, h, -⟩ | ⟨_, _, -, h⟩ | ⟨_, _, _, -, h⟩ | ⟨a, b, ha, h⟩ | ⟨a, v, ha, -, h⟩ |
    ⟨ha, h⟩ | ⟨ha, h⟩ <;> try (cases h)
  all_goals
    rcases advance_cases _ with ⟨_, e⟩ | ⟨hne, e⟩ <;> rw [e] at h <;> cases h
  · refine ⟨rfl, latch_op b, by simp [latch_step], by simpa [latch_op, latch_step] using hne, _, rfl, ?_⟩
    simpa [Event.error, Event.allowed] using ok.1 a ha
  · refine ⟨rfl, rfl, rfl, hne, _, rfl, ?_⟩
    simpa [Event.error, Event.allowed] using ok.2 a v ha
  · refine ⟨rfl, rfl, rfl, hne, _, rfl, ?_⟩
    simp [Event.error, Event.allowed]
  · exact ⟨rfl, rfl, rfl, hne, [], by simp, by simp⟩

/-- The command ends in `t`, from the state `u` its last step has brought about: an access failed and the exception is taken,
or the last row is completed. -/
def Closes (u t : State) : Prop :=
  (∃ ev e, ev.error = some e ∧ ev.allowed = true ∧ t = (u.log ev).raise (.transport e)) ∨ t = u.commit.complete

/-- Where a run that started in `s` stands: only sequencer, far side and events differ, and no access has failed. -/
def RunsFrom (s u : State) : Prop :=
  SeqFrame s u ∧ u.seq.op = s.seq.op ∧
    ∃ evs, u.events = s.events ++ evs ∧ ∀ ev ∈ evs, ev.error = none ∧ ev.allowed = true

theorem RunsFrom.refl (s : State) : RunsFrom s s := ⟨.refl s, rfl, [], by simp, by simp⟩

theorem RunsFrom.trans {s t u : State} (h : RunsFrom s t) (g : RunsFrom t u) : RunsFrom s u := by
  obtain ⟨hf, ho, evs, he, hev⟩ := h
  obtain ⟨gf, go, evs', ge, gev⟩ := g
  refine ⟨hf.trans gf, go.trans ho, evs ++ evs', by rw [ge, he, List.append_assoc], fun ev hm => ?_⟩
  rcases List.mem_append.1 hm with hm | hm
  · exact hev ev hm
  · exact gev ev hm

theorem RunsFrom.setFar (s : State) (f : FarSide) : RunsFrom s (s.setFar f) := ⟨rfl, rfl, [], by simp, by simp⟩

theorem RunsFrom.setSeq {s : State} {q : Sequencer} (h : q.op = s.seq.op) : RunsFrom s (s.setSeq q) :=
  ⟨rfl, h, [], by simp, by simp⟩

theorem RunsFrom.log {s : State} {ev : Event} (h : ev.error = none) (g : ev.allowed = true) : RunsFrom s (s.log ev) :=
  ⟨rfl, rfl, [ev], rfl, by simpa using ⟨h, g⟩⟩

/-- What a step that stops has done: it waits for the far side, or the command ends. -/
theorem seqStep_stopped {s t : State} (h : seqStep s = .stopped t) :
    (∃ f, f.creg = s.far.creg ∧ t = s.setFar f) ∨ ∃ u, RunsFrom s u ∧ Closes u t := by
  have ok := action_allowed s.seq
  have latch_op : ∀ b, (s.seq.latch b).op = s.seq.op := fun b => by
    simp only [Sequencer.latch]; split <;> (try split) <;> simp_all
  have done : ∀ {u : State}, u.advance = .stopped t → t = u.commit.complete := fun {u} e => by
    rcases advance_cases u with ⟨_, e'⟩ | ⟨_, e'⟩ <;> rw [e'] at e <;> cases e
    rfl
  rcases seqStep_cases s h with ⟨h, -⟩ | ⟨f, h, hf⟩ | ⟨a, e, ha, h⟩ | ⟨a, x, e, ha, h⟩ | ⟨a, b, ha, h⟩ |
    ⟨a, x, ha, -, h⟩ | ⟨ha, h⟩ | ⟨ha, h⟩
  · cases h
  · cases h
    exact .inl ⟨f, hf, rfl⟩
  · cases h
    exact .inr ⟨s.setFar (s.far.read a).2, .setFar _ _, .inl ⟨.rdErr a e, e, rfl, ok.1 a ha, rfl⟩⟩
  · cases h
    exact .inr ⟨s.setFar (s.far.write a x).2, .setFar _ _, .inl ⟨.wrErr a x e, e, rfl, ok.2 a x ha, rfl⟩⟩
  · exact .inr ⟨_, ((RunsFrom.setFar s (s.far.read a).2).trans (.log (ev := .rd a b) rfl (ok.1 a ha))).trans (.setSeq (latch_op b)),
      .inr (done h.symm)⟩
  · exact .inr ⟨_, (RunsFrom.setFar s (s.far.write a x).2).trans (.log (ev := .wr a x) rfl (ok.2 a x ha)), .inr (done h.symm)⟩
  · exact .inr ⟨_, (RunsFrom.setFar s s.far.waitGoesOn.2).trans (.log rfl rfl), .inr (done h.symm)⟩
  · exact .inr ⟨s, .refl s, .inr (done h.symm)⟩

/-- How a run of the sequencer ends: it waits, or the command ends. -/
theorem runSeq_end {n : Nat} {s t : State} (h : runSeq n s = .next t) : ∃ u, RunsFrom s u ∧ (t = u ∨ Closes u t) := by
  refine runSeq_induct (P := RunsFrom s) (Q := fun t => ∃ u, RunsFrom s u ∧ (t = u ∨ Closes u t)) ?_ ?_ ?_ n s t
    (.refl s) h
  · intro u v hu hs
    obtain ⟨hf, ho, -, -, hev⟩ := seqStep_running hs
    exact hu.trans ⟨hf, ho, hev⟩
  · intro u v hu hs
    rcases seqStep_stopped hs with ⟨f, -, rfl⟩ | ⟨w, hw, he⟩
    · exact ⟨_, hu.trans (.setFar u f), .inl rfl⟩
    · exact ⟨w, hu.trans hw, .inr he⟩
  · exact fun u hu => ⟨u, hu, .inl rfl⟩

/-- The sequencer stands in a row of a step table exactly when it is not idle and its step is one of the table's. -/
theorem action_isSome_iff (q : Sequencer) :
    q.action.isSome = true ↔ q.op ≠ .idle ∧ 1 ≤ q.step.toNat ∧ q.step.toNat ≤ q.op.last := by
  obtain ⟨op, step, _, _, _, _, _, _, _, _, _, _, _⟩ := q
  obtain ⟨⟨n, hn⟩⟩ := step
  cases op <;> simp only [Sequencer.action, SeqOp.last, BitVec.toNat] <;> interval_cases n <;> simp

/-- A step that goes on goes on in a row. -/
theorem row_running {s t : State} (hr : s.seq.action.isSome = true) (h : seqStep s = .running t) :
    t.seq.action.isSome = true := by
  obtain ⟨-, ho, hs, hne, -⟩ := seqStep_running h
  rw [action_isSome_iff] at hr ⊢
  obtain ⟨h1, h2, h3⟩ := hr
  have hl : s.seq.op.last ≤ 7 := by cases s.seq.op <;> simp [SeqOp.last]
  have hone : (1 : BitVec 4).toNat = 1 := rfl
  have : t.seq.step.toNat = s.seq.step.toNat + 1 := by
    rw [hs, BitVec.toNat_add, hone]
    omega
  exact ⟨ho ▸ h1, by omega, by rw [ho]; omega⟩

/-- A command starts in row 1 of its table. -/
theorem start_row {i : Instr} {s t : State} {q : Sequencer} (h : Starts i s t q) : q.action.isSome = true := by
  cases i <;> simp only [Starts] at h
  case rdch => obtain ⟨c, -, -, rfl⟩ := h; rfl
  case wrch => obtain ⟨c, -, -, rfl⟩ := h; rfl
  case init => obtain ⟨-, rfl⟩ := h; rfl
  case setrate => obtain ⟨-, -, rfl⟩ := h; rfl
  case setch => obtain ⟨-, c, -, -, rfl⟩ := h; rfl
  case setall => obtain ⟨-, -, rfl⟩ := h; rfl

/-- A run that starts in a row never faults. -/
theorem runSeq_next (n : Nat) {s : State} (h : s.seq.action.isSome = true) : ∃ t, runSeq n s = .next t :=
  runSeq_no_fault (P := fun s => s.seq.action.isSome = true) (fun s hs e => by simp [e] at hs)
    (fun _ _ hs e => row_running hs e) n s h

@[simp] theorem State.commit_ch (s : State) : s.commit.ch = s.ch := by unfold State.commit; split <;> rfl
@[simp] theorem State.commit_code (s : State) : s.commit.code = s.code := by unfold State.commit; split <;> rfl
@[simp] theorem State.commit_errMin (s : State) : s.commit.errMin = s.errMin := by unfold State.commit; split <;> rfl
@[simp] theorem State.commit_errMax (s : State) : s.commit.errMax = s.errMax := by unfold State.commit; split <;> rfl
@[simp] theorem State.commit_errVal (s : State) : s.commit.errVal = s.errVal := by unfold State.commit; split <;> rfl
@[simp] theorem State.commit_errBus (s : State) : s.commit.errBus = s.errBus := by unfold State.commit; split <;> rfl
@[simp] theorem State.commit_seq (s : State) : s.commit.seq = s.seq := by unfold State.commit; split <;> rfl
@[simp] theorem State.commit_host (s : State) : s.commit.host = s.host := by unfold State.commit; split <;> rfl
@[simp] theorem State.commit_readLog (s : State) : s.commit.readLog = s.readLog := by unfold State.commit; split <;> rfl
@[simp] theorem State.commit_fresh (s : State) : s.commit.fresh = s.fresh := by unfold State.commit; split <;> rfl
@[simp] theorem State.commit_far (s : State) : s.commit.far = s.far := by unfold State.commit; split <;> rfl
@[simp] theorem State.commit_events (s : State) : s.commit.events = s.events := by unfold State.commit; split <;> rfl

/-- A sequencer step keeps the canonical form of the store. -/
theorem seqStep_wf {s t : State} {p : Progress} (hw : Memory.wf s.far.creg = true) (h : seqStep s = p)
    (ht : p = .running t ∨ p = .stopped t) : Memory.wf t.far.creg = true := by
  have adv : ∀ u : State, p = u.advance → Memory.wf u.far.creg = true → Memory.wf t.far.creg = true := by
    intro u hu huw
    rcases advance_cases u with ⟨_, e⟩ | ⟨_, e⟩ <;> rw [hu, e] at ht <;> rcases ht with ht | ht <;> cases ht
    · simpa
    · exact huw
  rcases seqStep_cases s h with ⟨rfl, -⟩ | ⟨f, rfl, hf⟩ | ⟨a, e, ha, rfl⟩ | ⟨a, x, e, ha, rfl⟩ | ⟨a, b, ha, h⟩ |
    ⟨a, x, ha, -, h⟩ | ⟨ha, h⟩ | ⟨ha, h⟩
  · rcases ht with ht | ht <;> cases ht
  · rcases ht with ht | ht <;> cases ht
    simpa [hf]
  · rcases ht with ht | ht <;> cases ht
    simpa
  · rcases ht with ht | ht <;> cases ht
    simpa using FarSide.write_wf a x hw
  · exact adv _ h (by simpa)
  · exact adv _ h (by simpa using FarSide.write_wf a x hw)
  · exact adv _ h (by simpa)
  · exact adv _ h (by simpa)

end Sys2Proof.Machine
end

