-- ==== Sys2Proof/Laws/Hurried.lean ====
section
/-! SUPPORT. One step of the sequencer with and without the late answers of the script: it uses one of them up, or both do
the same. -/

namespace Sys2Proof.Machine

@[simp] theorem FarSide.hurried_creg (f : FarSide) : f.hurried.creg = f.creg := rfl
@[simp] theorem State.hurried_seq (s : State) : s.hurried.seq = s.seq := rfl
@[simp] theorem State.hurried_far (s : State) : s.hurried.far = s.far.hurried := rfl
@[simp] theorem State.hurried_busy (s : State) : s.hurried.busy = s.busy := rfl
@[simp] theorem State.hurried_host (s : State) : s.hurried.host = s.host := rfl

/-- The next answer is a late one, which is used up, or it is the next answer of the hurried far side too. -/
theorem FarSide.next_hurried (f : FarSide) :
    (∃ as, f.script = .later :: as ∧ f.next = (some .later, { f with script := as })) ∨
      f.hurried.next = (f.next.1, f.next.2.hurried) := by
  obtain ⟨script, rest, _, _⟩ := f
  cases script with
  | nil => right; cases rest <;> simp [FarSide.next, FarSide.hurried]
  | cons a as => cases a <;> simp [FarSide.next, FarSide.hurried]

theorem FarSide.read_hurried (f : FarSide) (a : Byte) :
    (∃ as, f.script = .later :: as ∧ f.read a = (none, { f with script := as })) ∨
      f.hurried.read a = ((f.read a).1, (f.read a).2.hurried) := by
  rcases f.next_hurried with ⟨as, h, e⟩ | h
  · exact .inl ⟨as, h, by simp [FarSide.read, e]⟩
  · right
    simp only [FarSide.read, h, FarSide.hurried_creg]
    rcases f.next with ⟨_ | a, g⟩
    · rfl
    · cases a <;> rfl

theorem FarSide.write_hurried (f : FarSide) (a v : Byte) :
    (∃ as, f.script = .later :: as ∧ f.write a v = (none, { f with script := as })) ∨
      f.hurried.write a v = ((f.write a v).1, (f.write a v).2.hurried) := by
  rcases f.next_hurried with ⟨as, h, e⟩ | h
  · exact .inl ⟨as, h, by simp [FarSide.write, e]⟩
  · right
    simp only [FarSide.write, h]
    rcases f.next with ⟨_ | a, g⟩
    · rfl
    · cases a <;> rfl

theorem FarSide.waitGoesOn_hurried (f : FarSide) :
    (∃ as, f.script = .later :: as ∧ f.waitGoesOn = (true, { f with script := as })) ∨
      (f.waitGoesOn = (false, f) ∧ f.hurried.waitGoesOn = (false, f.hurried)) := by
  obtain ⟨script, _, _, _⟩ := f
  have none_late : ∀ l : List BusAnswer, ∀ as, l.filter (· ≠ .later) ≠ .later :: as := fun l as h => by
    have : BusAnswer.later ∈ l.filter (· ≠ .later) := by rw [h]; simp
    simp at this
  by_cases h : ∃ as, script = .later :: as
  · obtain ⟨as, rfl⟩ := h
    exact .inl ⟨as, rfl, rfl⟩
  · right
    simp only [FarSide.waitGoesOn, FarSide.hurried]
    constructor
    · split
      · exact absurd ⟨_, rfl⟩ h
      · rfl
    · split
      · exact absurd ‹_› (none_late _ _)
      · rfl

/-- The progress of the hurried block. -/
def Progress.hurried : Progress → Progress
  | .running s => .running s.hurried
  | .stopped s => .stopped s.hurried
  | .noRow => .noRow

theorem State.advance_hurried (s : State) : s.hurried.advance = s.advance.hurried := by
  have commit : s.hurried.commit = s.commit.hurried := by
    simp only [State.commit, State.hurried_seq]
    split <;> rfl
  unfold State.advance
  by_cases h : s.seq.step.toNat = s.seq.op.last
  · rw [if_pos (show s.hurried.seq.step.toNat = s.hurried.seq.op.last from h), if_pos h, commit]
    rfl
  · rw [if_neg (show ¬ s.hurried.seq.step.toNat = s.hurried.seq.op.last from h), if_neg h]
    rfl

/-- A sequencer step uses up a late answer and nothing else, or the hurried block makes the same step. -/
theorem seqStep_hurried (s : State) :
    (∃ as, s.far.script = .later :: as ∧ seqStep s = .stopped (s.setFar { s.far with script := as })) ∨
      seqStep s.hurried = (seqStep s).hurried := by
  simp only [seqStep, State.hurried_seq, State.hurried_far]
  cases s.seq.action with
  | none => exact .inr rfl
  | some act =>
    cases act with
    | read a =>
      rcases s.far.read_hurried a with ⟨as, h, e⟩ | h
      · exact .inl ⟨as, h, by simp [e, State.gotRead]⟩
      · right
        simp only [h]
        rcases s.far.read a with ⟨_ | ⟨_ | b⟩, f⟩
        · rfl
        · rfl
        · simp only [State.gotRead, ← State.advance_hurried]
          rfl
    | write a v =>
      rcases s.far.write_hurried a v with ⟨as, h, e⟩ | h
      · exact .inl ⟨as, h, by simp [e, State.gotWrite]⟩
      · right
        simp only [h]
        rcases s.far.write a v with ⟨_ | ⟨_ | _⟩, f⟩
        · rfl
        · rfl
        · simp only [State.gotWrite, ← State.advance_hurried]
          rfl
    | wait =>
      rcases s.far.waitGoesOn_hurried with ⟨as, h, e⟩ | ⟨e, e'⟩
      · exact .inl ⟨as, h, by simp [e, State.gotWait]⟩
      · right
        simp only [e, e', State.gotWait, ← State.advance_hurried]
        rfl
    | compute => exact .inr (State.advance_hurried s)

end Sys2Proof.Machine
end

