-- ==== Sys2Proof/Laws/PerInstr.lean ====
section
/-! SUPPORT. Per instruction: the word the encoder gives is legal, by the row of R85 that bears the instruction's
mnemonic. -/

namespace Sys2Proof.Laws

/-- Some row of R85 bears the instruction's mnemonic and its word matches that row. -/
def EncodesLegal.Statement (i : Instr) : Prop :=
  ∃ r ∈ opRows, r.mnemonic = i.mnemonic ∧ r.matches (encode i) = true

/-- A packed word matches a row when its fields, masked, are the row's. -/
theorem matches_packWord {r : OpRow} {op slot op' slot' op2 slot2 : Byte} {a b c a' b' c' a2 b2 c2 : Half}
    (hm : r.mask = packWord op' slot' a' b' c') (hp : r.pattern = packWord op2 slot2 a2 b2 c2)
    (h : op &&& op' = op2 ∧ slot &&& slot' = slot2 ∧ a &&& a' = a2 ∧ b &&& b' = b2 ∧ c &&& c' = c2) :
    r.matches (packWord op slot a b c) = true := by
  rw [OpRow.matches, hm, hp, packWord_and, beq_iff_eq]
  obtain ⟨rfl, rfl, rfl, rfl, rfl⟩ := h
  rfl

/-- The high byte of a field that holds one byte is zero (R83). -/
theorem zero_append_and (x : Byte) : (0#8 ++ x : Half) &&& 0xFF00 = 0 := by
  apply BitVec.eq_of_getLsbD_eq
  intro i hi
  rw [BitVec.getLsbD_and, BitVec.getLsbD_append]
  split_ifs with h
  · have : BitVec.getLsbD (0xFF00#16) i = false := by interval_cases i <;> rfl
    simp [this]
  · simp

theorem EncodesLegal.mkled (slot : Byte) (index : Half) : EncodesLegal.Statement (.mkled slot index) :=
  ⟨opRows[0], by simp [opRows], rfl,
    matches_packWord (op' := 0xFF) (slot' := 0) (a' := 0) (b' := 0xFFFF) (c' := 0xFFFF) rfl
      (op2 := 0x10) (slot2 := 0) (a2 := 0) (b2 := 0) (c2 := 0) rfl ⟨rfl, by simp, by simp, rfl, rfl⟩⟩

theorem EncodesLegal.chidx (slot : Byte) : EncodesLegal.Statement (.chidx slot) :=
  ⟨opRows[1], by simp [opRows], rfl,
    matches_packWord (op' := 0xFF) (slot' := 0) (a' := 0xFFFF) (b' := 0xFFFF) (c' := 0xFFFF) rfl
      (op2 := 0x11) (slot2 := 0) (a2 := 0) (b2 := 0) (c2 := 0) rfl ⟨rfl, by simp, rfl, rfl, rfl⟩⟩

theorem EncodesLegal.regoff (slot base : Byte) : EncodesLegal.Statement (.regoff slot base) :=
  ⟨opRows[2], by simp [opRows], rfl,
    matches_packWord (op' := 0xFF) (slot' := 0) (a' := 0xFF00) (b' := 0xFFFF) (c' := 0xFFFF) rfl
      (op2 := 0x12) (slot2 := 0) (a2 := 0) (b2 := 0) (c2 := 0) rfl ⟨rfl, by simp, zero_append_and base, rfl, rfl⟩⟩

theorem EncodesLegal.addr (slot : Byte) : EncodesLegal.Statement (.addr slot) :=
  ⟨opRows[3], by simp [opRows], rfl,
    matches_packWord (op' := 0xFF) (slot' := 0) (a' := 0xFFFF) (b' := 0xFFFF) (c' := 0xFFFF) rfl
      (op2 := 0x13) (slot2 := 0) (a2 := 0) (b2 := 0) (c2 := 0) rfl ⟨rfl, by simp, rfl, rfl, rfl⟩⟩

theorem EncodesLegal.rdch (slot : Byte) : EncodesLegal.Statement (.rdch slot) :=
  ⟨opRows[4], by simp [opRows], rfl,
    matches_packWord (op' := 0xFF) (slot' := 0) (a' := 0xFFFF) (b' := 0xFFFF) (c' := 0xFFFF) rfl
      (op2 := 0x14) (slot2 := 0) (a2 := 0) (b2 := 0) (c2 := 0) rfl ⟨rfl, by simp, rfl, rfl, rfl⟩⟩

theorem EncodesLegal.wrch (slot d0 d1 d2 d3 : Byte) : EncodesLegal.Statement (.wrch slot d0 d1 d2 d3) :=
  ⟨opRows[5], by simp [opRows], rfl,
    matches_packWord (op' := 0xFF) (slot' := 0) (a' := 0) (b' := 0) (c' := 0xFFFF) rfl
      (op2 := 0x15) (slot2 := 0) (a2 := 0) (b2 := 0) (c2 := 0) rfl ⟨rfl, by simp, by simp, by simp, rfl⟩⟩

theorem EncodesLegal.init : EncodesLegal.Statement .init :=
  ⟨opRows[6], by simp [opRows], rfl, rfl⟩

theorem EncodesLegal.setrate (prescale : Byte) : EncodesLegal.Statement (.setrate prescale) :=
  ⟨opRows[7], by simp [opRows], rfl,
    matches_packWord (op' := 0xFF) (slot' := 0xFF) (a' := 0xFF00) (b' := 0xFFFF) (c' := 0xFFFF) rfl
      (op2 := 0x21) (slot2 := 0) (a2 := 0) (b2 := 0) (c2 := 0) rfl ⟨rfl, rfl, zero_append_and prescale, rfl, rfl⟩⟩

theorem EncodesLegal.calcps (rate : Half) : EncodesLegal.Statement (.calcps rate) :=
  ⟨opRows[8], by simp [opRows], rfl,
    matches_packWord (op' := 0xFF) (slot' := 0xFF) (a' := 0) (b' := 0xFFFF) (c' := 0xFFFF) rfl
      (op2 := 0x22) (slot2 := 0) (a2 := 0) (b2 := 0) (c2 := 0) rfl ⟨rfl, rfl, by simp, rfl, rfl⟩⟩

theorem EncodesLegal.setch (slot : Byte) (on off : Half) : EncodesLegal.Statement (.setch slot on off) :=
  ⟨opRows[9], by simp [opRows], rfl,
    matches_packWord (op' := 0xFF) (slot' := 0) (a' := 0) (b' := 0) (c' := 0xFFFF) rfl
      (op2 := 0x23) (slot2 := 0) (a2 := 0) (b2 := 0) (c2 := 0) rfl ⟨rfl, by simp, by simp, by simp, rfl⟩⟩

theorem EncodesLegal.setall (on off : Half) : EncodesLegal.Statement (.setall on off) :=
  ⟨opRows[10], by simp [opRows], rfl,
    matches_packWord (op' := 0xFF) (slot' := 0xFF) (a' := 0) (b' := 0) (c' := 0xFFFF) rfl
      (op2 := 0x24) (slot2 := 0) (a2 := 0) (b2 := 0) (c2 := 0) rfl ⟨rfl, rfl, by simp, by simp, rfl⟩⟩

theorem EncodesLegal.mkservo (slot : Byte) (index min max : Half) : EncodesLegal.Statement (.mkservo slot index min max) :=
  ⟨opRows[11], by simp [opRows], rfl,
    matches_packWord (op' := 0xFF) (slot' := 0) (a' := 0) (b' := 0) (c' := 0) rfl
      (op2 := 0x30) (slot2 := 0) (a2 := 0) (b2 := 0) (c2 := 0) rfl ⟨rfl, by simp, by simp, by simp, by simp⟩⟩

theorem EncodesLegal.d2p (slot : Byte) (angle : Half) : EncodesLegal.Statement (.d2p slot angle) :=
  ⟨opRows[12], by simp [opRows], rfl,
    matches_packWord (op' := 0xFF) (slot' := 0) (a' := 0) (b' := 0xFFFF) (c' := 0xFFFF) rfl
      (op2 := 0x31) (slot2 := 0) (a2 := 0) (b2 := 0) (c2 := 0) rfl ⟨rfl, by simp, by simp, rfl, rfl⟩⟩

theorem EncodesLegal.p2d (slot : Byte) (ticks : Half) : EncodesLegal.Statement (.p2d slot ticks) :=
  ⟨opRows[13], by simp [opRows], rfl,
    matches_packWord (op' := 0xFF) (slot' := 0) (a' := 0) (b' := 0xFFFF) (c' := 0xFFFF) rfl
      (op2 := 0x32) (slot2 := 0) (a2 := 0) (b2 := 0) (c2 := 0) rfl ⟨rfl, by simp, by simp, rfl, rfl⟩⟩

end Sys2Proof.Laws
end

