-- ==== Sys2Proof/Laws/Serve.lean ====
section
/-! SUPPORT. A run of the sequencer row by row, for a far side that answers: each lemma takes one row. -/

namespace Sys2Proof.Machine

/-- `s` with the sequencer running as `q`, the far side `f`, and these events recorded since. -/
def State.running (s : State) (q : Sequencer) (f : FarSide) (evs : List Event) : State :=
  { s with seq := q, busy := true, far := f, events := s.events ++ evs }

/-- How a command starts (`begin_ok`), in the form of these lemmas. -/
theorem running_start (s : State) (q : Sequencer) : (s.setSeq q).setBusy true = s.running q s.far [] := by
  simp [State.running, State.setSeq, State.setBusy]

/-- The sequencer in the next row, with what a read row has latched. -/
def Sequencer.after (q : Sequencer) (b : Byte) : Sequencer := { q.latch b with step := q.step + 1 }

/-- The sequencer in the next row. -/
def Sequencer.next (q : Sequencer) : Sequencer := { q with step := q.step + 1 }

theorem latch_op (q : Sequencer) (b : Byte) : (q.latch b).op = q.op := by
  simp only [Sequencer.latch]; split <;> (try split) <;> simp_all

theorem latch_step (q : Sequencer) (b : Byte) : (q.latch b).step = q.step := by
  simp only [Sequencer.latch]; split <;> (try split) <;> rfl

/-- A trace is cut off at its first access or later. -/
theorem cutOff_cons {ev : Event} {es evs : List Event} {e : Word32} : CutOff (ev :: es) e evs ↔
    (∃ bad, ev.failing e = some bad ∧ evs = [bad]) ∨ ∃ rest, CutOff es e rest ∧ evs = ev :: rest := by
  constructor
  · rintro ⟨done, ev', tail, bad, h1, h2, rfl⟩
    cases done with
    | nil =>
      simp only [List.nil_append, List.cons.injEq] at h1
      obtain ⟨rfl, rfl⟩ := h1
      exact .inl ⟨bad, h2, rfl⟩
    | cons d ds =>
      simp only [List.cons_append, List.cons.injEq] at h1
      obtain ⟨rfl, rfl⟩ := h1
      exact .inr ⟨ds ++ [bad], ⟨ds, ev', tail, bad, rfl, h2, rfl⟩, rfl⟩
  · rintro (⟨bad, h1, rfl⟩ | ⟨_, ⟨done, ev', tail, bad, rfl, h2, rfl⟩, rfl⟩)
    · exact ⟨[], ev, es, bad, rfl, h1, rfl⟩
    · exact ⟨ev :: done, ev', tail, bad, rfl, h2, rfl⟩

theorem not_cutOff_nil {evs : List Event} {e : Word32} : ¬ CutOff [] e evs := by
  rintro ⟨done, ev, rest, bad, h, -⟩
  simp at h

section rows

variable {n : Nat} {s : State} {q : Sequencer} {f g : FarSide} {evs : List Event} {a v b : Byte} {e : Word32}

theorem runSeq_read (ha : q.action = some (.read a)) (hr : f.read a = (some (.ok b), g)) (hl : (q.step.toNat == q.op.last) = false) :
    runSeq (n + 1) (s.running q f evs) = runSeq n (s.running (q.after b) g (evs ++ [.rd a b])) := by
  simp [runSeq, seqStep, State.running, ha, hr, State.gotRead, State.advance, latch_op, latch_step, by simpa using hl, State.setFar,
    State.log, State.setSeq, Sequencer.after]

theorem runSeq_read_last (ha : q.action = some (.read a)) (hr : f.read a = (some (.ok b), g))
    (hl : (q.step.toNat == q.op.last) = true) :
    runSeq (n + 1) (s.running q f evs) = .next (s.running (q.latch b) g (evs ++ [.rd a b])).commit.complete := by
  simp [runSeq, seqStep, State.running, ha, hr, State.gotRead, State.advance, latch_op, latch_step, by simpa using hl, State.setFar,
    State.log, State.setSeq]

theorem runSeq_read_failed (ha : q.action = some (.read a)) (hr : f.read a = (some (.error e), g)) :
    runSeq (n + 1) (s.running q f evs) = .next (s.endedTransport e g (evs ++ [.rdErr a e])) := by
  simp [runSeq, seqStep, State.running, ha, hr, State.gotRead, State.setFar, State.log, State.raise, State.setErrors,
    State.setErrBus, State.setCode, Exn.code, State.toIdle, State.setSeq, State.setBusy, State.endedTransport]

theorem runSeq_write (ha : q.action = some (.write a v)) (hr : f.write a v = (some (.ok ()), g))
    (hl : (q.step.toNat == q.op.last) = false) :
    runSeq (n + 1) (s.running q f evs) = runSeq n (s.running q.next g (evs ++ [.wr a v])) := by
  simp [runSeq, seqStep, State.running, ha, hr, State.gotWrite, State.advance, by simpa using hl, State.setFar, State.log, State.setSeq,
    Sequencer.next]

theorem runSeq_write_last (ha : q.action = some (.write a v)) (hr : f.write a v = (some (.ok ()), g))
    (hl : (q.step.toNat == q.op.last) = true) :
    runSeq (n + 1) (s.running q f evs) = .next (s.running q g (evs ++ [.wr a v])).commit.complete := by
  simp [runSeq, seqStep, State.running, ha, hr, State.gotWrite, State.advance, by simpa using hl, State.setFar, State.log]

theorem runSeq_write_failed (ha : q.action = some (.write a v)) (hr : f.write a v = (some (.error e), g)) :
    runSeq (n + 1) (s.running q f evs) = .next (s.endedTransport e g (evs ++ [.wrErr a v e])) := by
  simp [runSeq, seqStep, State.running, ha, hr, State.gotWrite, State.setFar, State.log, State.raise, State.setErrors,
    State.setErrBus, State.setCode, Exn.code, State.toIdle, State.setSeq, State.setBusy, State.endedTransport]

theorem runSeq_wait (ha : q.action = some .wait) (hr : f.waitGoesOn = (false, g)) (hl : (q.step.toNat == q.op.last) = false) :
    runSeq (n + 1) (s.running q f evs) = runSeq n (s.running q.next g (evs ++ [.wait 5])) := by
  simp [runSeq, seqStep, State.running, ha, hr, State.gotWait, State.advance, by simpa using hl, State.setFar, State.log, State.setSeq,
    Sequencer.next, Config.settleMs]

theorem runSeq_wait_last (ha : q.action = some .wait) (hr : f.waitGoesOn = (false, g)) (hl : (q.step.toNat == q.op.last) = true) :
    runSeq (n + 1) (s.running q f evs) = .next (s.running q g (evs ++ [.wait 5])).commit.complete := by
  simp [runSeq, seqStep, State.running, ha, hr, State.gotWait, State.advance, by simpa using hl, State.setFar, State.log, Config.settleMs]

theorem runSeq_compute (ha : q.action = some .compute) (hl : (q.step.toNat == q.op.last) = false) :
    runSeq (n + 1) (s.running q f evs) = runSeq n (s.running q.next f evs) := by
  simp [runSeq, seqStep, State.running, ha, State.advance, by simpa using hl, State.setSeq, Sequencer.next]

/-- How `RDCH` ends (R106). -/
theorem running_complete_rdch (h : q.op = .rdch) : (s.running q f evs).commit.complete =
    { s with
      res0 := zextByte q.buf0
      res1 := zextByte q.buf1
      res2 := zextByte q.buf2
      res3 := zextByte q.buf3
      code := 0
      seq := Sequencer.idle
      busy := false
      far := f
      events := s.events ++ evs } := by
  simp only [State.running, State.commit, h]
  rfl

/-- How `INIT` ends (R122). -/
theorem running_complete_init (h : q.op = .init) :
    (s.running q f evs).commit.complete = (s.setCtl true).endedWrites f evs := by
  simp only [State.running, State.commit, h]
  rfl

/-- How a command that only writes ends (R107, R125, R131). -/
theorem running_complete_writes (h : q.op = .wrch ∨ q.op = .setrate ∨ q.op = .setall) :
    (s.running q f evs).commit.complete = s.endedWrites f evs := by
  rcases h with h | h | h <;> simp only [State.running, State.commit, h] <;> rfl

end rows

end Sys2Proof.Machine
end

