-- ==== Sys2Proof/Tests/Slice0.lean ====
section
/-! SUPPORT. Tests against the words and vectors of spec/30 (R89, R92) and spec/95, and one witness theorem for every
statement that has hypotheses. -/

namespace Sys2Proof.Tests

open Sys2Proof.Machine

/-! ## Ill-formed words: each check of the table R85 refuses one -/

/-- spec/95 section 2.4: no row has these opcodes. -/
theorem test_illegal_opcode :
    wellFormedWord 0x0000000000000000 = false ∧ wellFormedWord 0xFFFFFFFFFFFFFFFF = false ∧
    wellFormedWord 0x1600000000000000 = false ∧ wellFormedWord 0x2500000000000000 = false ∧
    wellFormedWord 0x3300000000000000 = false := by decide

/-- A bit in a must-be-zero field of each row that has one (R83, R85; vectors V-MKLED-6, V-CHIDX-3, V-REGOFF-5, V-WRCH-4,
V-INIT-8, V-SETRATE-7, V-CALCPS, V-SETALL-5, V-D2P-E among them). -/
theorem test_illegal_fields :
    wellFormedWord 0x1001000000000001 = false ∧ wellFormedWord 0x1001000000010000 = false ∧
    wellFormedWord 0x1101000100000000 = false ∧ wellFormedWord 0x1201010000000000 = false ∧
    wellFormedWord 0x1300000000000001 = false ∧ wellFormedWord 0x1400000100000000 = false ∧
    wellFormedWord 0x1500020104030001 = false ∧ wellFormedWord 0x2000000000000001 = false ∧
    wellFormedWord 0x2001000000000000 = false ∧ wellFormedWord 0x2100011E00000000 = false ∧
    wellFormedWord 0x2101001E00000000 = false ∧ wellFormedWord 0x220000C800010000 = false ∧
    wellFormedWord 0x2201000000000000 = false ∧ wellFormedWord 0x2300000000000001 = false ∧
    wellFormedWord 0x2401000010000000 = false ∧ wellFormedWord 0x2400000000000001 = false ∧
    wellFormedWord 0x3100000000010000 = false ∧ wellFormedWord 0x3200000000000001 = false := by decide

/-- The decoder refuses by name (R88). -/
theorem test_decode_errors :
    decode 0x1600000000000000 = .error .unknownOpcode ∧ decode 0x1300000000000001 = .error .nonZeroReserved := by decide

/-! ## Words of R89 and R92, one for every constructor -/

theorem test_decode_channel_words :
    decode 0x1001000000000000 = .ok (.mkled 1 0) ∧ decode 0x1101000000000000 = .ok (.chidx 1) ∧
    decode 0x1203000600000000 = .ok (.regoff 3 0x06) ∧ decode 0x1303000000000000 = .ok (.addr 3) ∧
    decode 0x1400000000000000 = .ok (.rdch 0) ∧
    decode 0x1500019904CC0000 = .ok (.wrch 0 0x99 0x01 0xCC 0x04) := by decide

theorem test_decode_controller_words :
    decode 0x2000000000000000 = .ok .init ∧ decode 0x2100001E00000000 = .ok (.setrate 0x1E) ∧
    decode 0x220000C800000000 = .ok (.calcps 200) ∧
    decode 0x2300019904CC0000 = .ok (.setch 0 0x199 0x4CC) ∧
    decode 0x2400000008000000 = .ok (.setall 0 0x0800) := by decide

theorem test_decode_servo_words :
    decode 0x3000000300000FFF = .ok (.mkservo 0 3 0 4095) ∧ decode 0x3002000F00960258 = .ok (.mkservo 2 15 150 600) ∧
    decode 0x3100FFA600000000 = .ok (.d2p 0 (-90)) ∧ decode 0x3102FFD300000000 = .ok (.d2p 2 (-45)) ∧
    decode 0x320007FF00000000 = .ok (.p2d 0 2047) := by decide

/-- The encoder gives the words of R89 and R92 back. -/
theorem test_encode_words :
    encode (.regoff 3 0x06) = 0x1203000600000000 ∧ encode (.wrch 0 0x99 0x01 0xCC 0x04) = 0x1500019904CC0000 ∧
    encode (.mkservo 2 15 150 600) = 0x3002000F00960258 ∧ encode (.d2p 2 (-45)) = 0x3102FFD300000000 := by decide

/-! ## One step on small states -/

/-- The state after the command word has run in one step. -/
def after (s : State) (w : CmdWord) : State :=
  match step (s.withFetchWord 64 w.toNat) with
  | .next t => t
  | .fault _ => s
  | .refused _ => s

/-- Slots of the vectors of spec/95: ServoChannels in slots 0, 2 and 5, a LedChannel in slot 1. -/
def bench : State :=
  ((((State.reset.setCtl true).setSlot 0 ⟨true, .servo, 3, 0, 4095⟩).setSlot 1 ⟨true, .led, 15, 0, 0⟩).setSlot 2
    ⟨true, .servo, 15, 150, 600⟩).setSlot 5 ⟨true, .servo, 0, 7, 7⟩

/-- The same with these answers to come from the Bus Transport and these bytes in the reference chip. -/
def benchFar (script : List BusAnswer) (creg : List Host.Cell) : State := bench.setFar ⟨script, .chip, 0, creg⟩

/-- V-MKLED-2: the slot is written, and the host then reads it as 0x8F000000. -/
theorem test_mkled : (after State.reset 0x1001000F00000000).ch[1] = ⟨true, .led, 15, 0, 0⟩ ∧
    regValue (after State.reset 0x1001000F00000000) 17 = 0x8F000000 := by decide

/-- V-MKLED-3 and V-MKLED-8: the index is refused, and the slot check comes first. -/
theorem test_mkled_refused :
    (let t := after bench 0x1001001000000000
     t.code = 1 ∧ t.errMin = 0 ∧ t.errMax = 15 ∧ t.errVal = 16 ∧ t.ch = bench.ch) ∧
    (after bench 0x1010001000000000).code = 8 := by decide

/-- V-CHIDX-1, V-CHIDX-2. -/
theorem test_chidx : (after bench 0x1101000000000000).res0 = 0x000F ∧ (after State.reset 0x1101000000000000).code = 8 := by
  decide

/-- V-REGOFF-3, V-REGOFF-4: the sum is not reduced to a byte. -/
theorem test_regoff : (after bench 0x120100FE00000000).res0 = 0x013A ∧ (after bench 0x1201000000000000).res0 = 0x003C := by
  decide

/-- V-ADDR-2. -/
theorem test_addr :
    let t := after bench 0x1301000000000000
    t.res0 = 0x0042 ∧ t.res1 = 0x0043 ∧ t.res2 = 0x0044 ∧ t.res3 = 0x0045 := by decide

/-- V-RDCH-1, with a LedChannel of index 7 in slot 2. -/
theorem test_rdch :
    let s := (benchFar [] [(0x22, 0xDE), (0x23, 0xAD), (0x24, 0xBE), (0x25, 0xEF)]).setSlot 2 ⟨true, .led, 7, 0, 0⟩
    let t := after s 0x1402000000000000
    t.events = [.rd 0x22 0xDE, .rd 0x23 0xAD, .rd 0x24 0xBE, .rd 0x25 0xEF] ∧
      t.res0 = 0x00DE ∧ t.res1 = 0x00AD ∧ t.res2 = 0x00BE ∧ t.res3 = 0x00EF ∧ t.code = 0 := by decide

/-- V-RDCH-2: the third read fails, nothing is committed. -/
theorem test_rdch_failed :
    let s := ((benchFar [.chip, .chip, .error 0xE0000003] [(0x22, 0xDE), (0x23, 0xAD)]).setSlot 2
      ⟨true, .led, 7, 0, 0⟩).setRes 1 2 3 4
    let t := after s 0x1402000000000000
    t.events = [.rd 0x22 0xDE, .rd 0x23 0xAD, .rdErr 0x24 0xE0000003] ∧
      t.res0 = 1 ∧ t.res3 = 4 ∧ t.code = 5 ∧ t.errBus = 0xE0000003 ∧ t.busy = false := by decide

/-- V-WRCH-1 (the channel of index 0 is slot 5's here). -/
theorem test_wrch :
    let t := after bench 0x1505019904CC0000
    t.events = [.wr 0x06 0x99, .wr 0x07 0x01, .wr 0x08 0xCC, .wr 0x09 0x04] ∧
      t.far.creg = [(0x06, 0x99), (0x07, 0x01), (0x08, 0xCC), (0x09, 0x04)] ∧ t.code = 0 := by decide

/-- V-WRCH-2: the third write fails, what was written stays. -/
theorem test_wrch_failed :
    let t := after (benchFar [.chip, .chip, .error 0x2A] []) 0x1505019904CC0000
    t.events = [.wr 0x06 0x99, .wr 0x07 0x01, .wrErr 0x08 0xCC 0x2A] ∧
      t.far.creg = [(0x06, 0x99), (0x07, 0x01)] ∧ t.code = 5 ∧ t.errBus = 0x2A := by decide

/-- V-INIT-1 and V-INIT-2. -/
theorem test_init :
    (let t := after (State.reset.setFar ⟨[], .chip, 0, [(0x00, 0x11)]⟩) 0x2000000000000000
     t.events = [.wr 0x01 0x04, .wr 0x00 0x01, .wait 5, .rd 0x00 0x01, .wr 0x00 0x01, .wait 5] ∧
       t.far.creg = [(0x00, 0x01), (0x01, 0x04)] ∧ t.ctlValid = true ∧ t.code = 0) ∧
    (after (State.reset.setFar ⟨[.chip, .chip, .byte 0x31], .chip, 0, []⟩) 0x2000000000000000).events =
      [.wr 0x01 0x04, .wr 0x00 0x01, .wait 5, .rd 0x00 0x31, .wr 0x00 0x21, .wait 5] := by decide

/-- V-INIT-4: the first write fails, and `ctl.valid` is 0 although it was 1. -/
theorem test_init_failed :
    let t := after (benchFar [.error 1] []) 0x2000000000000000
    t.events = [.wrErr 0x01 0x04 1] ∧ t.ctlValid = false ∧ t.code = 5 ∧ t.errBus = 1 := by decide

/-- V-SETRATE-1 and V-SETRATE-4. -/
theorem test_setrate :
    (let t := after (benchFar [] [(0x00, 0x01)]) 0x2100001E00000000
     t.events = [.rd 0x00 0x01, .wr 0x00 0x11, .wr 0xFE 0x1E, .wr 0x00 0x01, .wait 5, .wr 0x00 0x81] ∧
       t.far.creg = [(0x00, 0x81), (0xFE, 0x1E)] ∧ t.code = 0) ∧
    (after (benchFar [] [(0x00, 0x6F)]) 0x210000FF00000000).events =
      [.rd 0x00 0x6F, .wr 0x00 0x7F, .wr 0xFE 0xFF, .wr 0x00 0x6F, .wait 5, .wr 0x00 0xEF] := by decide

/-- V-SETRATE-6, failing step 5, and V-SETRATE-5. -/
theorem test_setrate_failed :
    (let t := after (benchFar [.chip, .chip, .chip, .error 9] [(0x00, 0x01)]) 0x2100001E00000000
     t.events = [.rd 0x00 0x01, .wr 0x00 0x11, .wr 0xFE 0x1E, .wrErr 0x00 0x01 9] ∧
       t.far.creg = [(0x00, 0x11), (0xFE, 0x1E)] ∧ t.code = 5 ∧ t.ctlValid = true) ∧
    (after State.reset 0x2100001E00000000).code = 7 := by decide

/-- V-CALCPS: rates 200, 24, 12208 (wraps to 0xFF), 23 (wraps to 8), 1. -/
theorem test_calcps :
    (after bench 0x220000C800000000).res0 = 0x001E ∧ (after bench 0x2200001800000000).res0 = 0x00FD ∧
    (after bench 0x22002FB000000000).res0 = 0x00FF ∧ (after bench 0x2200001700000000).res0 = 0x0008 ∧
    (after bench 0x2200000100000000).res0 = 0x00D7 := by decide

/-- V-CALCPS: rates 0, -1, -32768 are refused. -/
theorem test_calcps_refused :
    (after bench 0x2200000000000000).code = 6 ∧ (after bench 0x2200FFFF00000000).code = 6 ∧
    (after bench 0x2200800000000000).code = 6 := by decide

/-- V-SETCH-2: no range check on the ticks. -/
theorem test_setch :
    (after bench 0x2302FFFF10000000).events = [.wr 0x42 0xFF, .wr 0x43 0xFF, .wr 0x44 0x00, .wr 0x45 0x10] := by decide

/-- V-SETCH-3: no Controller comes before no slot. -/
theorem test_setch_refused :
    (after State.reset 0x2300000100020000).code = 7 ∧ (after (State.reset.setCtl true) 0x2300000100020000).code = 8 := by
  decide

/-- V-SETALL-2 and V-SETALL-3. -/
theorem test_setall :
    (after bench 0x2400019904CC0000).events = [.wr 0xFA 0x99, .wr 0xFB 0x01, .wr 0xFC 0xCC, .wr 0xFD 0x04] ∧
    (after State.reset 0x2400000010000000).code = 7 := by decide

/-- V-SETALL-4: the fourth write fails. -/
theorem test_setall_failed :
    let t := after (benchFar [.chip, .chip, .chip, .error 6] []) 0x2400000010000000
    t.events = [.wr 0xFA 0x00, .wr 0xFB 0x00, .wr 0xFC 0x00, .wrErr 0xFD 0x10 6] ∧ t.code = 5 := by decide

/-- V-MKSERVO-2 and V-MKSERVO-3. -/
theorem test_mkservo :
    regValue (after State.reset 0x3002000F00960258) 18 = 0xCF096258 ∧
    (after State.reset 0x3005000000070007).ch[5] = ⟨true, .servo, 0, 7, 7⟩ := by decide

/-- V-MKSERVO-7 and V-MKSERVO-8. -/
theorem test_mkservo_refused :
    (let t := after bench 0x3000000302580096
     t.code = 4 ∧ t.errMin = 0 ∧ t.errMax = 150 ∧ t.errVal = 600 ∧ t.ch = bench.ch) ∧
    (after bench 0x3000001013881770).errVal = 16 ∧ (after bench 0x3000000313881770).errVal = 5000 ∧
    (after bench 0x300000030FFF1000).errVal = 4096 := by decide

/-- V-D2P: [0, 4095] at -90, -45 and 90, [150, 600] at -45. -/
theorem test_d2p :
    (after bench 0x3100FFA600000000).res0 = 0 ∧ (after bench 0x3100FFD300000000).res0 = 1023 ∧
    (after bench 0x3100005A00000000).res0 = 4095 ∧ (after bench 0x3102FFD300000000).res0 = 262 := by decide

/-- V-D2P-E: the angle -91, a LedChannel (before its angle), a slot that is not valid. -/
theorem test_d2p_refused :
    (let t := after bench 0x3100FFA500000000
     t.code = 2 ∧ t.errMin = -90 ∧ t.errMax = 90 ∧ t.errVal = -91) ∧
    (after bench 0x3101005B00000000).code = 9 ∧ (after bench 0x3104000000000000).code = 8 := by decide

/-- V-P2D: [0, 4095] at 11, 12 and 2047, [150, 600] at 152. -/
theorem test_p2d :
    (after bench 0x3200000B00000000).res0 = 0xFFA6 ∧ (after bench 0x3200000C00000000).res0 = 0xFFA7 ∧
    (after bench 0x320007FF00000000).res0 = 0 ∧ (after bench 0x3202009800000000).res0 = -89 := by decide

/-- V-P2D-E: below the range, a range of zero width, a LedChannel. -/
theorem test_p2d_refused :
    (let t := after bench 0x3202009500000000
     t.code = 3 ∧ t.errMin = 150 ∧ t.errMax = 600 ∧ t.errVal = 149) ∧
    (after bench 0x3205000700000000).code = 6 ∧ (after bench 0x3205000600000000).code = 3 ∧
    (after bench 0x3201000000000000).code = 9 := by decide

/-- A half way case of V-P2D goes up: [0, 360] at 1 and 179. -/
theorem test_p2d_ties : angleOf 0 360 1 = -89 ∧ angleOf 0 360 179 = 0 := by decide

/-- An illegal word completes with code 10 and issues no access (spec/95 section 2.4). -/
theorem test_illegal_word :
    let t := after bench 0x2000000000000001
    t.code = 10 ∧ t.ctlValid = true ∧ t.events = [] ∧ t.ch = bench.ch := by decide

/-- R28, R40, C12: the layout of `STATUS`, whatever `busy` and `code` are. -/
theorem test_status_layout : statusWord true 0xFF = 0x000001FF ∧ statusWord false 10 = 0x0000000A := by decide

/-- V-RESET-1. -/
theorem test_reset :
    let t := applyReset (benchFar [] [(0x00, 0x81)])
    t.ch = State.reset.ch ∧ t.ctlValid = false ∧ t.code = 0 ∧ t.events = [] ∧ t.far.creg = [(0x00, 0x81)] := by decide

/-- The store keeps its canonical form: writing 0x00 removes the entry. -/
theorem test_store : Memory.write [(0x06, 0x99), (0x09, 0x04)] 0x06 0x00 = [(0x09, 0x04)] ∧
    Memory.read [(0x09, 0x04)] 0x06 = 0x00 ∧ Memory.wf [(0x06, 0x99), (0x09, 0x04)] = true ∧
    Memory.wf [(0x09, 0x04), (0x06, 0x99)] = false := by decide

/-! ## Witnesses: states and operands that meet the hypotheses of the statements -/

/-- `bench` with the host's next action. -/
def benchHost (h : List HostAct) : State := bench.setHost h

/-- A block in step 3 of `WRCH` on channel 3, with these answers to come and this far side after them. -/
def midWrite (script : List BusAnswer) (rest : FarRest) (h : List HostAct) : State :=
  (((bench.setSeq ⟨.wrch, 3, 0, 0, 0, 0, 0, 3, 1, 2, 3, 4, 0⟩).setBusy true).setFar ⟨script, rest, 0, []⟩).setHost h

/-- A step after which the machine goes on. -/
def goesOn (s : State) : Bool :=
  match step s with
  | .next _ => true
  | .fault _ => false
  | .refused _ => false

theorem bench_slot0 : bench.HasSlot 0 ⟨true, .servo, 3, 0, 4095⟩ := ⟨by decide, rfl, rfl⟩
theorem bench_slot1 : bench.HasSlot 1 ⟨true, .led, 15, 0, 0⟩ := ⟨by decide, rfl, rfl⟩
theorem bench_slot2 : bench.HasSlot 2 ⟨true, .servo, 15, 150, 600⟩ := ⟨by decide, rfl, rfl⟩
theorem bench_slot5 : bench.HasSlot 5 ⟨true, .servo, 0, 7, 7⟩ := ⟨by decide, rfl, rfl⟩
theorem bench_noSlot4 : bench.NoSlot 4 := .inr ⟨Slot.empty, rfl, rfl⟩
theorem bench_noSlot15 : bench.NoSlot 15 := .inr ⟨Slot.empty, rfl, rfl⟩
theorem bench_noSlot16 : bench.NoSlot 16 := .inl (by decide)
theorem bench_noSlot255 : bench.NoSlot 255 := .inl (by decide)
theorem bench_isChip : bench.far.IsChip := ⟨rfl, rfl⟩
theorem bench_wf : Memory.wf bench.far.creg = true := rfl

/-- The words the result statements decode are those of R89. -/
theorem test_packed_words :
    packWord 0x12 3 (0#8 ++ 0x06#8) 0 0 = 0x1203000600000000 ∧
    packWord 0x15 0 (0x01#8 ++ 0x99#8) (0x04#8 ++ 0xCC#8) 0 = 0x1500019904CC0000 ∧
    packWord 0x24 0 0 0x0800 0 = 0x2400000008000000 := by decide

theorem witness_StepRunsDecodedCommand :
    (benchHost [.command 0x1101000000000000]).busy = false ∧
    (benchHost [.command 0x1101000000000000]).host = .command 0x1101000000000000 :: [] ∧
    decode 0x1101000000000000 = .ok (.chidx 1) ∧ bench.busy = false ∧ (midWrite [] .chip []).host = [] ∧
    (midWrite [] .chip [.pass]).host = .pass :: [] := ⟨rfl, rfl, rfl, rfl, rfl, rfl⟩

theorem witness_EncodeOfDecode : decode 0x3102FFD300000000 = .ok (.d2p 2 (-45)) := by decide

theorem witness_IllegalWordOnlySetsStatus :
    (benchHost [.command 0x2001000000000000]).busy = false ∧
    (benchHost [.command 0x2001000000000000]).host = .command 0x2001000000000000 :: [] ∧
    wellFormedWord 0x2001000000000000 = false := by decide

theorem witness_BusyBlockIgnoresCommand :
    (midWrite [] .chip [.command 0x2000000000000000]).busy = true ∧
    (midWrite [] .chip [.command 0x2000000000000000]).host = .command 0x2000000000000000 :: [] := ⟨rfl, rfl⟩

/-- Numbers at the ends of each range: 9 and 10, 15 and 16, 31 and 32. -/
theorem witness_IdleReadReturnsRegister :
    (∀ n ∈ [0, 9, 10, 15, 16, 31, 32], (benchHost [.read n]).busy = false ∧ (benchHost [.read n]).host = .read n :: []) ∧
    (16 = 16 + (0 : Fin 16).val ∧ 31 = 16 + (15 : Fin 16).val) := by decide

theorem witness_BusyReadShowsBusy :
    ∀ n ∈ [0, 9, 10, 15, 16, 31, 32],
      (midWrite [] .chip [.read n]).busy = true ∧ (midWrite [] .chip [.read n]).host = .read n :: [] := by decide

theorem witness_ResetTouchesNoBus :
    (benchHost [.reset]).busy = false ∧ (benchHost [.reset]).host = .reset :: [] ∧
    (midWrite [] .chip [.reset]).busy = true ∧ (midWrite [] .chip [.reset]).host = .reset :: [] := ⟨rfl, rfl, rfl, rfl⟩

theorem witness_ResetWhileBusyAbandons :
    (midWrite [] .chip [.reset]).busy = true ∧ (midWrite [] .chip [.reset]).host = .reset :: [] ∧
    (midWrite [] .chip [.reset]).seq.action = some (.write 0x14 3) := by decide

theorem witness_StepKeepsInvariant :
    (midWrite [] .chip []).Inv ∧ goesOn (midWrite [] .chip []) = true := by decide

theorem witness_NothingStopsTheMachine : (midWrite [.later] .chip []).Inv := by decide

/-- `MKSERVO` writes slot 15, which was empty; reset empties slot 0. -/
theorem witness_SlotsChangeOnlyByConstructors :
    (∃ t, step (benchHost [.command 0x300F000000070007]) = .next t ∧ t.ch[15] ≠ bench.ch[15]) ∧
    (∃ t, step (benchHost [.reset]) = .next t ∧ t.ch[0] ≠ bench.ch[0]) :=
  ⟨⟨_, rfl, by decide⟩, ⟨_, rfl, by decide⟩⟩

theorem witness_ControllerChangesOnlyByInit :
    (∃ t, step (State.reset.setHost [.command 0x2000000000000000]) = .next t ∧ t.ctlValid ≠ false) ∧
    (∃ t, step (benchHost [.reset]) = .next t ∧ t.ctlValid ≠ true) ∧
    (∃ t, step ((State.reset.setBusy true).setSeq ⟨.init, 6, 0, 0, 0, 0, 0, 0, 0, 0, 0, 0, 1⟩) = .next t ∧
      t.ctlValid ≠ false) :=
  ⟨⟨_, rfl, by decide⟩, ⟨_, rfl, by decide⟩, ⟨_, rfl, by decide⟩⟩

theorem witness_AccessesStayInRegisterMap :
    ∃ t, step (benchHost [.command 0x1401000000000000]) = .next t ∧
      t.events = [.rd 0x42 0, .rd 0x43 0, .rd 0x44 0, .rd 0x45 0] := ⟨_, rfl, by decide⟩

/-- A command that ends in its step, one that still waits, and one under way that ends, or waits again, in a later move. -/
theorem witness_CommandReportsItsCodes :
    (∃ t, exec (.p2d 5 7) bench = .next t ∧ t.busy = false ∧ t.code = 6) ∧
    (∃ t, exec (.setch 1 5 6) (benchFar [.chip, .later] []) = .next t ∧ t.busy = true ∧ t.seq.op = .wrch) ∧
    (∃ t, (midWrite [.chip] .chip []).busy = true ∧ proceed (midWrite [.chip] .chip []) = .next t ∧ t.busy = false) ∧
    (∃ t, (midWrite [.later] .chip []).busy = true ∧ proceed (midWrite [.later] .chip []) = .next t ∧ t.busy = true) :=
  ⟨⟨_, rfl, by decide⟩, ⟨_, rfl, by decide⟩, ⟨_, rfl, rfl, by decide⟩, ⟨_, rfl, rfl, by decide⟩⟩

theorem witness_FailedCommandWritesNoResult :
    (∃ t, (benchFar [.chip, .chip, .chip, .error 7] []).Moves t ∧ t.busy = false ∧ t.code ≠ 0) ∧
    (∃ t, (midWrite [.error 7] .chip []).Moves t ∧ t.busy = false ∧ t.code ≠ 0) :=
  ⟨⟨_, .inl ⟨.rdch 1, rfl⟩, by decide⟩, ⟨_, .inr ⟨rfl, rfl⟩, by decide⟩⟩

theorem witness_RefusedCommandHasEmptyTrace :
    ∃ t, exec (.setall 0 0) State.reset = .next t ∧ t.busy = false ∧ t.code ≠ 0 ∧ t.code ≠ 5 := ⟨_, rfl, by decide⟩

theorem witness_ErrorRegistersFollowTheirClass :
    (∃ t, bench.Moves t ∧ (t.errMin, t.errMax, t.errVal) ≠ (bench.errMin, bench.errMax, bench.errVal)) ∧
    (∃ t, (benchFar [.error 1] []).Moves t ∧ t.errBus ≠ (benchFar [.error 1] []).errBus) :=
  ⟨⟨_, .inl ⟨.d2p 0 91, rfl⟩, by decide⟩, ⟨_, .inl ⟨.init, rfl⟩, by decide⟩⟩

theorem witness_FirstFailureEndsCommand :
    (∃ t, (benchFar [.chip, .errorStored 6] []).Moves t ∧ t.busy = false ∧ t.code = 5) ∧
    (∃ t, (midWrite [.chip] .chip []).Moves t ∧ t.busy = false ∧ t.code = 0) :=
  ⟨⟨_, .inl ⟨.setall 0 0x1000, rfl⟩, by decide⟩, ⟨_, .inr ⟨rfl, rfl⟩, by decide⟩⟩

theorem witness_WaitingCommandHasWrittenNothing :
    (∃ t, (benchFar [.chip, .later] []).Moves t ∧ t.busy = true ∧ t.seq.step = 2) ∧
    (∃ t, (midWrite [.chip, .later] .chip []).Moves t ∧ t.busy = true ∧ t.seq.step = 4) :=
  ⟨⟨_, .inl ⟨.setall 0 0x1000, rfl⟩, by decide⟩, ⟨_, .inr ⟨rfl, rfl⟩, by decide⟩⟩

/-- `s` with other contents in registers that no command reads. -/
def otherRegisters (s : State) : State := (((s.setRes 1 2 3 4).setCode 9).setErrBus 5).setRange 6 7 8

/-- Two states that differ in what no command reads, for an accepted command that writes results, and for one under way. -/
theorem witness_RegistersNeverFeedBack :
    (bench.SameInputs (otherRegisters bench) ∧ bench.res0 ≠ (otherRegisters bench).res0 ∧
      (∃ t, exec (.d2p 2 0) bench = .next t ∧ t.code = 0) ∧
      ∃ t', exec (.d2p 2 0) (otherRegisters bench) = .next t' ∧ t'.res0 = 375) ∧
    ((midWrite [.chip] .chip []).SameInputs (otherRegisters (midWrite [.chip] .chip [])) ∧
      (midWrite [.chip] .chip []).busy = true ∧ (otherRegisters (midWrite [.chip] .chip [])).busy = true ∧
      (midWrite [.chip] .chip []).seq = (otherRegisters (midWrite [.chip] .chip [])).seq ∧
      (∃ t, proceed (midWrite [.chip] .chip []) = .next t ∧ t.busy = false) ∧
      ∃ t', proceed (otherRegisters (midWrite [.chip] .chip [])) = .next t' ∧ t'.busy = false) :=
  ⟨⟨⟨rfl, rfl, rfl⟩, by decide, ⟨_, rfl, by decide⟩, ⟨_, rfl, by decide⟩⟩,
   ⟨rfl, rfl, rfl⟩, rfl, rfl, rfl, ⟨_, rfl, by decide⟩, ⟨_, rfl, by decide⟩⟩

theorem witness_PromptFarSideEndsCommand :
    (benchFar [.byte 1, .error 2] []).far.Prompt ∧ (midWrite [.chip] .chip []).Inv ∧ (midWrite [.chip] .chip []).busy = true ∧
    (midWrite [.chip] .chip []).host = [] ∧ (midWrite [.chip] .chip []).far.Prompt :=
  ⟨⟨by decide, rfl⟩, by decide, rfl, rfl, ⟨by decide, rfl⟩⟩

theorem witness_UnansweredAccessHangs :
    (midWrite [] .silent []).busy = true ∧ (midWrite [] .silent []).host = [] ∧ (midWrite [] .silent []).far.script = [] ∧
    (midWrite [] .silent []).far.rest = .silent ∧ (midWrite [] .silent []).seq.action = some (.write 0x14 3) ∧
    ((midWrite [] .silent []).setSeq ⟨.rdch, 4, 0, 0, 0, 0, 0, 15, 0, 0, 0, 0, 0⟩).seq.action = some (.read 0x45) := by
  decide

theorem witness_LateAnswerChangesNothing :
    (midWrite [.later, .chip] .chip []).busy = true ∧ (midWrite [.later, .chip] .chip []).host = [] ∧
    (midWrite [.later, .chip] .chip []).far.script = .later :: [.chip] ∧
    (midWrite [.later, .chip] .chip []).seq.action = some (.write 0x14 3) ∧ Action.write 0x14 3 ≠ .compute := by decide

/-- The instance of the statement for two late answers, one of them to a wait, and two more moves; and for a silent far side
after a late answer, where the command hangs in its second access in both. -/
theorem witness_LateAnswersChangeNoOutcome :
    ((benchFar [.later, .chip, .chip, .later] []).host = [] ∧
      ∃ t u, exec .init (benchFar [.later, .chip, .chip, .later] []) = .next t ∧ core.run 2 t = .next u ∧
        exec .init (benchFar [.later, .chip, .chip, .later] []).hurried = .next u.hurried ∧ u.busy = false) ∧
    ((bench.setFar ⟨[.chip, .later], .silent, 0, []⟩).host = [] ∧
      ∃ t u, exec .init (bench.setFar ⟨[.chip, .later], .silent, 0, []⟩) = .next t ∧ core.run 1 t = .next u ∧
        exec .init (bench.setFar ⟨[.chip, .later], .silent, 0, []⟩).hurried = .next u.hurried ∧ u.busy = true) :=
  ⟨⟨rfl, _, _, rfl, rfl, rfl, rfl⟩, rfl, _, _, rfl, rfl, rfl, rfl⟩

theorem witness_MkledResult :
    ((15 : Byte).toNat < 16 ∧ (15 : Half).toNat ≤ 15) ∧ ((0 : Byte).toNat < 16 ∧ 15 < (16 : Half).toNat) ∧
    (15 < (65535 : Half).toNat) ∧ (16 ≤ (16 : Byte).toNat ∧ 16 ≤ (255 : Byte).toNat) := by decide

theorem witness_ChidxResult : bench.HasSlot 0 ⟨true, .servo, 3, 0, 4095⟩ ∧ bench.NoSlot 15 ∧ bench.NoSlot 16 :=
  ⟨bench_slot0, bench_noSlot15, bench_noSlot16⟩

theorem witness_RegoffResult : bench.HasSlot 1 ⟨true, .led, 15, 0, 0⟩ ∧ bench.NoSlot 4 ∧ bench.NoSlot 255 :=
  ⟨bench_slot1, bench_noSlot4, bench_noSlot255⟩

theorem witness_AddrResult : bench.HasSlot 5 ⟨true, .servo, 0, 7, 7⟩ ∧ bench.NoSlot 15 ∧ bench.NoSlot 16 :=
  ⟨bench_slot5, bench_noSlot15, bench_noSlot16⟩

theorem witness_PseudoInstructionsExpand : bench.HasSlot 1 ⟨true, .led, 15, 0, 0⟩ := bench_slot1

/-- A far side that fails the fourth read of channel 15. -/
theorem witness_RdchResult :
    (bench.HasSlot 1 ⟨true, .led, 15, 0, 0⟩ ∧ ∃ f, bench.far.Serves (rdchTrace 15 0 0 0 0) f) ∧
    (∃ evs f, CutOff (rdchTrace 15 0 0 0 9) 7 evs ∧ (benchFar [.chip, .chip, .chip, .error 7] []).far.Serves evs f) ∧
    (∃ evs f, CutOff (rdchTrace 15 1 2 3 9) 7 evs ∧ (benchFar [.error 7] []).far.Serves evs f) ∧ bench.NoSlot 16 :=
  ⟨⟨bench_slot1, _, _, rfl, _, rfl, _, rfl, _, rfl, rfl⟩,
   ⟨_, _, ⟨[.rd 0x42 0, .rd 0x43 0, .rd 0x44 0], .rd 0x45 9, [], .rdErr 0x45 7, rfl, rfl, rfl⟩,
    _, rfl, _, rfl, _, rfl, _, rfl, rfl⟩,
   ⟨_, _, ⟨[], .rd 0x42 1, [.rd 0x43 2, .rd 0x44 3, .rd 0x45 9], .rdErr 0x42 7, rfl, rfl, rfl⟩, _, rfl, rfl⟩,
   bench_noSlot16⟩

theorem witness_WrchResult :
    (bench.HasSlot 5 ⟨true, .servo, 0, 7, 7⟩ ∧ ∃ f, bench.far.Serves (wrchTrace 0 0x99 0x01 0xCC 0x04) f) ∧
    (∃ evs f, CutOff (wrchTrace 0 1 2 3 4) 0x2A evs ∧ (benchFar [.chip, .chip, .errorStored 0x2A] []).far.Serves evs f) ∧
    bench.NoSlot 4 :=
  ⟨⟨bench_slot5, _, _, rfl, _, rfl, _, rfl, _, rfl, rfl⟩,
   ⟨_, _, ⟨[.wr 0x06 1, .wr 0x07 2], .wr 0x08 3, [.wr 0x09 4], .wrErr 0x08 3 0x2A, rfl, rfl, rfl⟩,
    _, rfl, _, rfl, _, rfl, rfl⟩, bench_noSlot4⟩

theorem witness_ChannelsShareNoRegister :
    bench.HasSlot 1 ⟨true, .led, 15, 0, 0⟩ ∧ bench.HasSlot 0 ⟨true, .servo, 3, 0, 4095⟩ ∧ (15 : BitVec 4) ≠ 3 ∧
    ∃ t, exec (.wrch 1 1 2 3 4) bench = .next t := ⟨bench_slot1, bench_slot0, by decide, _, rfl⟩

theorem witness_WriteThenReadReturnsBytes :
    bench.HasSlot 1 ⟨true, .led, 15, 0, 0⟩ ∧ bench.far.IsChip ∧ Memory.wf bench.far.creg = true :=
  ⟨bench_slot1, bench_isChip, bench_wf⟩

theorem witness_InitResult :
    (∃ f, State.reset.far.Serves (initTrace 0x01) f) ∧
    (∃ evs f, CutOff (initTrace 0x01) 3 evs ∧ (benchFar [.chip, .chip, .chip, .error 3] []).far.Serves evs f) :=
  ⟨⟨_, _, rfl, _, rfl, _, rfl, _, rfl, _, rfl, _, rfl, rfl⟩,
   ⟨_, _, ⟨[.wr 0x01 0x04, .wr 0x00 0x01, .wait 5, .rd 0x00 0x01], .wr 0x00 0x01, [.wait 5], .wrErr 0x00 0x01 3,
     rfl, rfl, rfl⟩, _, rfl, _, rfl, _, rfl, _, rfl, _, rfl, rfl⟩⟩

theorem witness_InitOnReferenceChip : State.reset.far.IsChip ∧ Memory.wf State.reset.far.creg = true := ⟨⟨rfl, rfl⟩, rfl⟩

theorem witness_SetrateResult :
    (bench.ctlValid = true ∧ ∃ f, (benchFar [] [(0x00, 0x11)]).far.Serves (setrateTrace 0x79 0x11) f) ∧
    (∃ evs f, CutOff (setrateTrace 0x1E 0x01) 9 evs ∧
      (benchFar [.chip, .chip, .error 9] [(0x00, 0x01)]).far.Serves evs f) ∧ State.reset.ctlValid = false :=
  ⟨⟨rfl, _, _, rfl, _, rfl, _, rfl, _, rfl, _, rfl, _, rfl, rfl⟩,
   ⟨_, _, ⟨[.rd 0x00 0x01, .wr 0x00 0x11], .wr 0xFE 0x1E, [.wr 0x00 0x01, .wait 5, .wr 0x00 0x81], .wrErr 0xFE 0x1E 9,
     rfl, rfl, rfl⟩, _, rfl, _, rfl, _, rfl, rfl⟩, rfl⟩

/-- A block in row `k` of the sequence, with these answers to come. -/
def midSequence (op : SeqOp) (k : BitVec 4) (script : List BusAnswer) : State :=
  ((benchFar script []).setSeq { Sequencer.start op 0 0x1E 0 0 0 with step := k }).setBusy true

/-- Accepted commands, and commands under way in the first and the last row of each table and in row 2 of `SETRATE`. -/
theorem witness_SequencesKeepTheirOrder :
    (∃ t, exec .init bench = .next t ∧ t.code = 0) ∧ (∃ t, exec (.setrate 3) bench = .next t ∧ t.code = 0) ∧
    (∀ k ∈ [1, 6], (midSequence .init k []).busy = true ∧ (midSequence .init k []).seq.op = .init ∧
      ∃ t, proceed (midSequence .init k []) = .next t) ∧
    (∀ k ∈ [1, 2, 7], (midSequence .setrate k []).busy = true ∧ (midSequence .setrate k []).seq.op = .setrate ∧
      ∃ t, proceed (midSequence .setrate k []) = .next t) := by
  refine ⟨⟨_, rfl, by decide⟩, ⟨_, rfl, by decide⟩, fun k hk => ⟨rfl, rfl, ?_⟩, fun k hk => ⟨rfl, rfl, ?_⟩⟩
  · simp only [List.mem_cons, List.not_mem_nil, or_false] at hk
    rcases hk with rfl | rfl <;> exact ⟨_, rfl⟩
  · simp only [List.mem_cons, List.not_mem_nil, or_false] at hk
    rcases hk with rfl | rfl | rfl <;> exact ⟨_, rfl⟩

/-- R123, R126 row by row: what is left of each table from the row a block stands in. -/
theorem test_rows_left :
    initFrom 1 = initShape ∧ initFrom 4 = [.r 0x00, .w 0x00, .wait] ∧ initFrom 6 = [.wait] ∧
    setrateFrom 1 = setrateShape ∧ setrateFrom 2 = setrateFrom 3 ∧ setrateFrom 3 = [.w 0x00, .w 0xFE, .w 0x00, .wait, .w 0x00] ∧
    setrateFrom 6 = [.wait, .w 0x00] ∧ setrateFrom 7 = [.w 0x00] := by decide

theorem witness_SetrateOnReferenceChip :
    bench.ctlValid = true ∧ bench.far.IsChip ∧ Memory.wf bench.far.creg = true := ⟨rfl, bench_isChip, bench_wf⟩

theorem witness_SetrateFailurePoints :
    ∀ n < 5, ∃ t, (benchFar (List.replicate n .chip ++ [.error 9]) [(0x00, 0x01)]).ctlValid = true ∧
      (benchFar (List.replicate n .chip ++ [.error 9]) [(0x00, 0x01)]).far.rest = .chip ∧
      Memory.wf (benchFar (List.replicate n .chip ++ [.error 9]) [(0x00, 0x01)]).far.creg = true ∧
      exec (.setrate 0x1E) (benchFar (List.replicate n .chip ++ [.error 9]) [(0x00, 0x01)]) = .next t := by
  intro n hn
  match n, hn with
  | 0, _ => exact ⟨_, rfl, rfl, rfl, rfl⟩
  | 1, _ => exact ⟨_, rfl, rfl, rfl, rfl⟩
  | 2, _ => exact ⟨_, rfl, rfl, rfl, rfl⟩
  | 3, _ => exact ⟨_, rfl, rfl, rfl, rfl⟩
  | 4, _ => exact ⟨_, rfl, rfl, rfl, rfl⟩

/-- Both with and without the hazard: `MODE_1` = 0x81 and 0x01. -/
theorem witness_EarlyRestartOnlyIfOldHadRestart :
    (∃ t, exec (.setrate 3) (benchFar [] [(0x00, 0x81)]) = .next t ∧ t.busy = false ∧ t.code = 0) ∧
    (∃ t, exec (.setrate 3) (benchFar [] [(0x00, 0x01)]) = .next t ∧ t.busy = false ∧ t.code = 0) :=
  ⟨⟨_, rfl, by decide⟩, ⟨_, rfl, by decide⟩⟩

theorem witness_CalcpsResult :
    0 < (1 : Half).toInt ∧ 0 < (32767 : Half).toInt ∧ (0 : Half).toInt ≤ 0 ∧ (0x8000 : Half).toInt ≤ 0 := by decide

/-- R129 at the ends of its ranges. -/
theorem witness_CalcpsRange :
    (1 ≤ 1 ∧ 1 ≤ 32767 ∧ 1 ≤ 23) ∧ prescaleOf 23 = 264 ∧ prescaleOf 24 = 253 ∧ prescaleOf 12207 = 0 ∧ prescaleOf 12208 = -1 := by
  decide

theorem witness_SetchResult :
    (bench.ctlValid = true ∧ bench.HasSlot 0 ⟨true, .servo, 3, 0, 4095⟩ ∧ ∃ f, bench.far.Serves (setchTrace 3 0 0x0BFF) f) ∧
    (∃ evs f, CutOff (setchTrace 3 0x199 0x4CC) 5 evs ∧ (benchFar [.chip, .error 5] []).far.Serves evs f) ∧
    State.reset.ctlValid = false ∧ (bench.ctlValid = true ∧ bench.NoSlot 16) :=
  ⟨⟨rfl, bench_slot0, _, _, rfl, _, rfl, _, rfl, _, rfl, rfl⟩,
   ⟨_, _, ⟨[.wr 0x12 0x99], .wr 0x13 0x01, [.wr 0x14 0xCC, .wr 0x15 0x04], .wrErr 0x13 0x01 5, rfl, rfl, rfl⟩,
    _, rfl, _, rfl, rfl⟩, rfl, rfl, bench_noSlot16⟩

theorem witness_SetchIsWrchOfItsBytes : bench.ctlValid = true := rfl

theorem witness_SetallResult :
    (bench.ctlValid = true ∧ ∃ f, bench.far.Serves (setallTrace 0 0x0800) f) ∧
    (∃ evs f, CutOff (setallTrace 0 0x1000) 6 evs ∧ (benchFar [.chip, .chip, .chip, .error 6] []).far.Serves evs f) ∧
    State.reset.ctlValid = false :=
  ⟨⟨rfl, _, _, rfl, _, rfl, _, rfl, _, rfl, rfl⟩,
   ⟨_, _, ⟨[.wr 0xFA 0, .wr 0xFB 0, .wr 0xFC 0], .wr 0xFD 0x10, [], .wrErr 0xFD 0x10 6, rfl, rfl, rfl⟩,
    _, rfl, _, rfl, _, rfl, _, rfl, rfl⟩, rfl⟩

theorem witness_MkservoResult :
    ((15 : Byte).toNat < 16 ∧ (15 : Half).toNat ≤ 15 ∧ (4095 : Half).toNat ≤ 4095 ∧ (4095 : Half).toNat ≤ (4095 : Half).toNat) ∧
    15 < (16 : Half).toNat ∧ 4095 < (4096 : Half).toNat ∧ (150 : Half).toNat < (600 : Half).toNat ∧
    16 ≤ (16 : Byte).toNat := by decide

theorem witness_D2pResult :
    (bench.HasSlot 2 ⟨true, .servo, 15, 150, 600⟩ ∧ (150 : BitVec 12).toNat ≤ (600 : BitVec 12).toNat ∧
      -90 ≤ (-90 : Half).toInt ∧ (90 : Half).toInt ≤ 90) ∧
    ((-91 : Half).toInt < -90 ∧ 90 < (91 : Half).toInt) ∧ bench.HasSlot 1 ⟨true, .led, 15, 0, 0⟩ ∧ bench.NoSlot 4 :=
  ⟨⟨bench_slot2, by decide, by decide, by decide⟩, ⟨by decide, by decide⟩, bench_slot1, bench_noSlot4⟩

theorem witness_P2dResult :
    (bench.HasSlot 2 ⟨true, .servo, 15, 150, 600⟩ ∧ (150 : BitVec 12).toNat ≤ (150 : Half).toNat ∧
      (600 : Half).toNat ≤ (600 : BitVec 12).toNat ∧ (150 : BitVec 12) ≠ 600) ∧
    ((149 : Half).toNat < (150 : BitVec 12).toNat ∧ (600 : BitVec 12).toNat < (601 : Half).toNat) ∧
    (bench.HasSlot 5 ⟨true, .servo, 0, 7, 7⟩ ∧ (7 : Half).toNat = (7 : BitVec 12).toNat) ∧
    bench.HasSlot 1 ⟨true, .led, 15, 0, 0⟩ ∧ bench.NoSlot 4 :=
  ⟨⟨bench_slot2, by decide, by decide, by decide⟩, ⟨by decide, by decide⟩, ⟨bench_slot5, rfl⟩, bench_slot1, bench_noSlot4⟩

theorem witness_ConversionsStayInRangeAndRise :
    bench.HasSlot 2 ⟨true, .servo, 15, 150, 600⟩ ∧
    ((-90 : Half).toInt ≤ (90 : Half).toInt ∧ (∃ t, exec (.d2p 2 (-90)) bench = .next t ∧ t.code = 0) ∧
      ∃ u, exec (.d2p 2 90) bench = .next u ∧ u.code = 0) ∧
    ((150 : Half).toNat ≤ (600 : Half).toNat ∧ (∃ t, exec (.p2d 2 150) bench = .next t ∧ t.code = 0) ∧
      ∃ u, exec (.p2d 2 600) bench = .next u ∧ u.code = 0) :=
  ⟨bench_slot2, ⟨by decide, ⟨_, rfl, by decide⟩, ⟨_, rfl, by decide⟩⟩, ⟨by decide, ⟨_, rfl, by decide⟩, ⟨_, rfl, by decide⟩⟩⟩

theorem witness_DefaultSettingsRoundTrip :
    bench.HasSlot 0 ⟨true, .servo, 3, 0, 4095⟩ ∧ ∃ t, exec (.d2p 0 45) bench = .next t ∧ t.code = 0 :=
  ⟨bench_slot0, _, rfl, by decide⟩

theorem witness_ConstructorFrame :
    (∃ t, exec (.mkled 15 15) bench = .next t) ∧ (∃ t, exec (.mkservo 16 0 0 0) bench = .next t) := ⟨⟨_, rfl⟩, ⟨_, rfl⟩⟩

theorem witness_OneResultFrame :
    (∃ t, exec (.chidx 1) bench = .next t) ∧ (∃ t, exec (.regoff 1 0xFE) bench = .next t) ∧
    (∃ t, exec (.calcps 200) bench = .next t) ∧ (∃ t, exec (.d2p 2 0) bench = .next t) ∧
    (∃ t, exec (.p2d 2 150) bench = .next t) := ⟨⟨_, rfl⟩, ⟨_, rfl⟩, ⟨_, rfl⟩, ⟨_, rfl⟩, ⟨_, rfl⟩⟩

theorem witness_FourResultFrame :
    (∃ t, exec (.addr 1) bench = .next t) ∧ (∃ t, exec (.rdch 1) bench = .next t) := ⟨⟨_, rfl⟩, ⟨_, rfl⟩⟩

theorem witness_ChannelWriteFrame :
    (∃ t, exec (.wrch 1 1 2 3 4) bench = .next t) ∧ (∃ t, exec (.setch 1 5 6) bench = .next t) ∧
    bench.HasSlot 1 ⟨true, .led, 15, 0, 0⟩ ∧ bench.NoSlot 4 := ⟨⟨_, rfl⟩, ⟨_, rfl⟩, bench_slot1, bench_noSlot4⟩

theorem witness_ControllerFrame :
    (∃ t, exec .init bench = .next t) ∧ (∃ t, exec (.setrate 3) bench = .next t) ∧
    (∃ t, exec (.setall 5 6) bench = .next t) := ⟨⟨_, rfl⟩, ⟨_, rfl⟩, ⟨_, rfl⟩⟩

end Sys2Proof.Tests
end

section
/-! The scope rules (spec/00_scope.md): late answers (R11, R66, log entry 11) and `CALCPS` (R128). -/

namespace Sys2Proof.Machine

/-! ### A late answer is used up and nothing else happens -/

/-- A run stops where its first step stops. -/
theorem runSeq_stopped {s t : State} (n : Nat) (h : seqStep s = .stopped t) : runSeq (n + 1) s = .next t := by
  simp only [runSeq, h]

/-- A run goes on where its first step goes on. -/
theorem runSeq_running {s t : State} (n : Nat) (h : seqStep s = .running t) : runSeq (n + 1) s = runSeq n t := by
  simp only [runSeq, h]

/-- A late answer that heads the script is the next answer. -/
theorem FarSide.next_late {f : FarSide} {as : List BusAnswer} (h : f.script = .later :: as) :
    f.next = (some .later, { f with script := as }) := by
  simp only [FarSide.next, h]

/-- In a row with an access or a wait, a late answer is used up and nothing else happens. -/
theorem seqStep_late {s : State} {as : List BusAnswer} {act : Action} (h : s.far.script = .later :: as)
    (ha : s.seq.action = some act) (hc : act ≠ .compute) :
    seqStep s = .stopped (s.setFar { s.far with script := as }) := by
  cases act with
  | read a => simp only [seqStep, ha, FarSide.read, FarSide.next_late h, State.gotRead]
  | write a v => simp only [seqStep, ha, FarSide.write, FarSide.next_late h, State.gotWrite]
  | wait => simp only [seqStep, ha, FarSide.waitGoesOn, h, State.gotWait]
  | compute => exact absurd rfl hc

/-- A busy block goes on with its sequence where the host does nothing (R35). -/
theorem step_busy {s : State} (hb : s.busy = true) (hh : s.host = []) : step s = runSeq seqFuel s := by
  simp only [step, hh, proceed, hb, if_true]

/-- Settles O28: the row under way takes the late answer, so the move stops there. -/
theorem lateAnswerChangesNothing : Obligations.LateAnswerChangesNothing := by
  intro s as act hb hh hs ha hc
  rw [step_busy hb hh]
  exact runSeq_stopped 7 (seqStep_late hs ha hc)

/-! ### `CALCPS` -/

/-- `roundDiv n d` is the integer nearest to `n / d` where `n / d` does not lie halfway between two (R9). -/
theorem roundDiv_nearest {n d : Nat} (hd : 0 < d) (htie : ¬ d ∣ 2 * n) :
    2 * |(n : Int) - roundDiv n d * d| < d := by
  have hlow : 2 * (roundDiv n d * d) ≤ 2 * n + d := by
    have := Nat.div_mul_le_self (2 * n + d) (2 * d)
    unfold roundDiv
    linarith
  have hhigh : 2 * n + d < 2 * (roundDiv n d * d) + 2 * d := by
    have := Nat.lt_div_mul_add (a := 2 * n + d) (b := 2 * d) (by omega)
    unfold roundDiv
    linarith
  have hne : 2 * (roundDiv n d * d) ≠ 2 * n + d := fun e =>
    htie ((Nat.dvd_add_left (dvd_refl d)).1 (e ▸ ⟨2 * roundDiv n d, by ring⟩))
  zify at hlow hhigh hne
  have hlt := lt_of_le_of_ne hlow hne
  rcases abs_cases ((n : Int) - roundDiv n d * d) with ⟨e, -⟩ | ⟨e, -⟩ <;> rw [e] <;> linarith

/-- No rate puts `OSC_FREQ / (4096 * rate)` halfway between two integers: 4096 does not divide `2 * OSC_FREQ`. -/
theorem oscFreq_no_tie (r : Nat) : ¬ 4096 * r ∣ 2 * Config.oscFreq := fun h =>
  absurd ((Nat.dvd_mul_right 4096 r).trans h) (by decide)

/-- `prescaleOf` is the nearest integer less one (R128). -/
theorem prescaleOf_nearest {r : Nat} (hr : 0 < r) :
    2 * |(25000000 : Int) - (prescaleOf r + 1) * (4096 * r)| < 4096 * r := by
  have h := roundDiv_nearest (Nat.mul_pos (by decide : 0 < 4096) hr) (oscFreq_no_tie r)
  simpa [prescaleOf, Config.oscFreq] using h

/-- Settles O46: `prescaleOf` is the integer asked for. -/
theorem calcpsResult : Obligations.CalcpsResult := by
  intro s rate
  refine ⟨by rw [decode_packWord]; rfl, fun hpos => ?_, fun hle => ?_⟩
  · have hnat : (rate.toInt.toNat : Int) = rate.toInt := Int.toNat_of_nonneg hpos.le
    have hnear := prescaleOf_nearest (r := rate.toInt.toNat) (by omega)
    rw [hnat] at hnear
    refine ⟨prescaleOf rate.toInt.toNat, hnear, ?_⟩
    simp only [exec, execCalcps, not_le.2 hpos, if_false]
    rfl
  · simp only [exec, execCalcps, hle, if_true]
    rfl

/-! ### Late answers change no outcome

A run that meets late answers stops at each of them, and the block's next move goes on with fresh fuel. So beside the hurried
run it takes the same rows, with stops in between; the fuel is enough in both, because no table has more rows. -/

/-- The block comes, after some more moves, to the state that `h` ends in, but for late answers still in its script. -/
def CatchesUp (r h : Result) : Prop :=
  ∃ (k : Nat) (t u : State), r = .next t ∧ core.run k t = .next u ∧ h = .next u.hurried

theorem CatchesUp.next (t : State) : CatchesUp (.next t) (.next t.hurried) := ⟨0, t, t, rfl, rfl, rfl⟩

/-- A busy block that stands in a row of its table, left alone by the host. -/
structure State.UnderWay (s : State) : Prop where
  busy : s.busy = true
  host : s.host = []
  row : s.seq.action.isSome = true

theorem State.UnderWay.setFar {s : State} (hs : s.UnderWay) (f : FarSide) : (s.setFar f).UnderWay :=
  ⟨hs.busy, hs.host, hs.row⟩

/-- A block that is under way goes on in its next move. -/
theorem State.UnderWay.catchesUp {s : State} {h : Result} (hs : s.UnderWay) (c : CatchesUp (runSeq seqFuel s) h) :
    CatchesUp (.next s) h := by
  obtain ⟨k, t, u, hrun, hmoves, rfl⟩ := c
  have hstep : core.step s = .next t := (step_busy hs.busy hs.host).trans hrun
  exact ⟨k + 1, s, u, rfl, by simp only [Host.Core.run, hstep, hmoves], rfl⟩

/-- The fuel `n` is enough for the rows that are left. -/
def Sequencer.FuelFor (q : Sequencer) (n : Nat) : Prop := q.op.last < q.step.toNat + n

/-- The largest step number is 7 (R33). -/
theorem SeqOp.last_le (op : SeqOp) : op.last ≤ 7 := by cases op <;> decide

/-- A whole move's fuel is enough from every row (R33). -/
theorem fuelFor_seqFuel {q : Sequencer} (h : q.action.isSome = true) : q.FuelFor seqFuel := by
  obtain ⟨-, h1, -⟩ := (action_isSome_iff q).1 h
  have hl := q.op.last_le
  simp only [Sequencer.FuelFor, seqFuel]
  omega

/-- A block in a row has fuel for it. -/
theorem fuelFor_pos {q : Sequencer} {n : Nat} (h : q.action.isSome = true) (hn : q.FuelFor n) : ∃ m, n = m + 1 := by
  obtain ⟨-, -, hle⟩ := (action_isSome_iff q).1 h
  exact Nat.exists_eq_succ_of_ne_zero (by simp only [Sequencer.FuelFor] at hn; omega)

/-- A step that goes on leaves the block under way. -/
theorem underWay_running {s t : State} (hs : s.UnderWay) (h : seqStep s = .running t) : t.UnderWay := by
  obtain ⟨hf, -⟩ := seqStep_running h
  have hbusy : t.busy = s.busy := by rw [hf]
  have hhost : t.host = s.host := by rw [hf]
  exact ⟨hbusy.trans hs.busy, hhost.trans hs.host, row_running hs.row h⟩

/-- A step that goes on uses one unit of fuel and leaves one row less. -/
theorem fuelFor_running {s t : State} {n : Nat} (hs : s.UnderWay) (h : seqStep s = .running t)
    (hn : s.seq.FuelFor (n + 1)) : t.seq.FuelFor n := by
  obtain ⟨-, ho, he, -⟩ := seqStep_running h
  obtain ⟨-, -, hle⟩ := (action_isSome_iff _).1 hs.row
  have hl := s.seq.op.last_le
  have hone : (1 : BitVec 4).toNat = 1 := rfl
  simp only [Sequencer.FuelFor, ho, he, BitVec.toNat_add, hone] at hn ⊢
  omega

/-- A block in a row is never told that there is no such row. -/
theorem seqStep_ne_noRow {s : State} (h : s.seq.action.isSome = true) : seqStep s ≠ .noRow := fun e => by
  obtain ⟨t, ht⟩ := runSeq_next 1 h
  simp [runSeq, e] at ht

/-- The hurried block is the same with and without a late answer at the head of the script. -/
theorem hurried_late {s : State} {as : List BusAnswer} (h : s.far.script = .later :: as) :
    (s.setFar { s.far with script := as }).hurried = s.hurried := by
  simp [State.hurried, FarSide.hurried, State.setFar, h]

/-- The simulation: a run with late answers catches up with the hurried run. By induction on the fuel of the hurried run, and
for each fuel on the length of the script, since a late answer costs the hurried run nothing. -/
theorem runSeq_catchesUp (m n : Nat) (s : State) (hs : s.UnderWay) (hm : s.seq.FuelFor m) (hn : s.seq.FuelFor n) :
    CatchesUp (runSeq n s) (runSeq m s.hurried) := by
  induction m generalizing n s with
  | zero =>
    obtain ⟨_, h⟩ := fuelFor_pos hs.row hm
    cases h
  | succ m ihFuel =>
    induction hlen : s.far.script.length using Nat.strong_induction_on generalizing n s with
    | _ len ihScript =>
      obtain ⟨n, rfl⟩ := fuelFor_pos hs.row hn
      rcases seqStep_hurried s with ⟨as, hscript, hstep⟩ | hsame
      · have hshorter : as.length < len := by simp [← hlen, hscript]
        have hrest := ihScript as.length hshorter seqFuel _ (hs.setFar { s.far with script := as }) hm
          (fuelFor_seqFuel hs.row) rfl
        rw [hurried_late hscript] at hrest
        rw [runSeq_stopped n hstep]
        exact (hs.setFar _).catchesUp hrest
      · cases hp : seqStep s with
        | running t =>
          rw [hp] at hsame
          rw [runSeq_running n hp, runSeq_running m hsame]
          exact ihFuel n t (underWay_running hs hp) (fuelFor_running hs hp hm) (fuelFor_running hs hp hn)
        | stopped t =>
          rw [hp] at hsame
          rw [runSeq_stopped n hp, runSeq_stopped m hsame]
          exact CatchesUp.next t
        | noRow => exact absurd hp (seqStep_ne_noRow hs.row)

/-! How a command is accepted does not depend on the far side. -/

theorem State.raise_hurried (s : State) (x : Exn) : s.hurried.raise x = (s.raise x).hurried := by cases x <;> rfl

/-- A command that only computes ends in the same way with a hurried far side. -/
theorem State.settle_hurried (s : State) (r : Except Exn State) :
    s.hurried.settle (r.map State.hurried) = (s.settle r).hurried := by
  cases r with
  | ok t => rfl
  | error x => exact s.raise_hurried x

/-- Every sequence starts in a row. -/
theorem isSome_of_start {op : SeqOp} {i : BitVec 4} {d0 d1 d2 d3 : Byte} {q : Sequencer} (h : op ≠ .idle)
    (e : (.ok (.start op i d0 d1 d2 d3) : Except Exn Sequencer) = .ok q) : q.action.isSome = true := by
  cases e
  cases op with
  | idle => exact absurd rfl h
  | _ => rfl

/-- A sequence that starts after a check starts in a row, if it does so for every answer of the check. -/
theorem isSome_of_bind {α : Type} {x : Except Exn α} {f : α → Except Exn Sequencer} {q : Sequencer}
    (hf : ∀ c, f c = .ok q → q.action.isSome = true) (h : x >>= f = .ok q) : q.action.isSome = true := by
  cases x with
  | ok c => exact hf c h
  | error e => cases h

/-- A check that does not depend on the far side carries over, if what is computed from its answer does. -/
theorem bind_map_hurried {α : Type} {x : Except Exn α} {f g : α → Except Exn State}
    (h : ∀ c, g c = (f c).map State.hurried) : x >>= g = (x >>= f).map State.hurried := by
  cases x with
  | ok c => exact h c
  | error e => rfl

/-- A command that only computes settles in the same way with a hurried far side, if it computes the same. -/
theorem settle_congr_hurried {s : State} {r r' : Except Exn State} (h : r' = r.map State.hurried) :
    (.next (s.hurried.settle r') : Result) = .next (s.settle r).hurried := by
  rw [h, s.settle_hurried]

/-- A command ends at once, or it begins a sequence in a row; with a hurried far side it does the same. -/
theorem exec_hurried (i : Instr) (s : State) :
    (∃ t, exec i s = .next t ∧ exec i s.hurried = .next t.hurried) ∨
    (∃ (t : State) (r : Except Exn Sequencer), t.host = s.host ∧ exec i s = t.begin r ∧
      exec i s.hurried = t.hurried.begin r ∧ ∀ q, r = .ok q → q.action.isSome = true) := by
  cases i with
  | mkled slot index =>
    exact .inl ⟨_, rfl, settle_congr_hurried (bind_map_hurried fun n => bind_map_hurried fun c => rfl)⟩
  | chidx slot => exact .inl ⟨_, rfl, settle_congr_hurried (bind_map_hurried fun c => rfl)⟩
  | regoff slot base => exact .inl ⟨_, rfl, settle_congr_hurried (bind_map_hurried fun c => rfl)⟩
  | addr slot => exact .inl ⟨_, rfl, settle_congr_hurried (bind_map_hurried fun c => rfl)⟩
  | rdch slot => exact .inr ⟨s, _, rfl, rfl, rfl, fun q => isSome_of_bind fun c => isSome_of_start (by decide)⟩
  | wrch slot d0 d1 d2 d3 => exact .inr ⟨s, _, rfl, rfl, rfl, fun q => isSome_of_bind fun c => isSome_of_start (by decide)⟩
  | init => exact .inr ⟨s.setCtl false, _, rfl, rfl, rfl, fun q => isSome_of_start (by decide)⟩
  | setrate p => exact .inr ⟨s, _, rfl, rfl, rfl, fun q => isSome_of_bind fun _ => isSome_of_start (by decide)⟩
  | calcps rate => exact .inl ⟨_, rfl, settle_congr_hurried (by split <;> rfl)⟩
  | setch slot on off =>
    exact .inr ⟨s, _, rfl, rfl, rfl, fun q => isSome_of_bind fun _ => isSome_of_bind fun c => isSome_of_start (by decide)⟩
  | setall on off => exact .inr ⟨s, _, rfl, rfl, rfl, fun q => isSome_of_bind fun _ => isSome_of_start (by decide)⟩
  | mkservo slot index mn mx =>
    exact .inl ⟨_, rfl, settle_congr_hurried
      (bind_map_hurried fun n => bind_map_hurried fun c => bind_map_hurried fun _ => rfl)⟩
  | d2p slot angle => exact .inl ⟨_, rfl, settle_congr_hurried (bind_map_hurried fun c => by split <;> rfl)⟩
  | p2d slot ticks =>
    exact .inl ⟨_, rfl, settle_congr_hurried (bind_map_hurried fun c => by split <;> split <;> rfl)⟩

/-- A sequence that begins in a row catches up with the hurried one. -/
theorem begin_catchesUp {s : State} {r : Except Exn Sequencer} (hh : s.host = [])
    (hr : ∀ q, r = .ok q → q.action.isSome = true) : CatchesUp (s.begin r) (s.hurried.begin r) := by
  cases r with
  | ok q =>
    have hrow := hr q rfl
    exact runSeq_catchesUp seqFuel seqFuel ((s.setSeq q).setBusy true) ⟨rfl, hh, hrow⟩ (fuelFor_seqFuel hrow)
      (fuelFor_seqFuel hrow)
  | error x =>
    rw [begin_error, begin_error, s.raise_hurried]
    exact CatchesUp.next _

/-- Settles O29: what a command settles does not depend on the far side, and what it begins catches up with the hurried
sequence. -/
theorem lateAnswersChangeNoOutcome : Obligations.LateAnswersChangeNoOutcome := by
  intro i s hh
  change CatchesUp (exec i s) (exec i s.hurried)
  rcases exec_hurried i s with ⟨t, e, e'⟩ | ⟨t, r, ht, e, e', hr⟩ <;> rw [e, e']
  · exact CatchesUp.next t
  · exact begin_catchesUp (ht.trans hh) hr

end Sys2Proof.Machine
end

section
/-! What a command and a move of the block leave, said once (R27, R33, R35, R166, R167); the invariant (R22, R31, R33, R35,
R161). -/

namespace Sys2Proof.Machine

/-! ### What a command leaves -/

/-- How a command that answers `t` got there: it took an exception, it computed and completed, or it ran a sequence. -/
theorem exec_next {i : Instr} {s t : State} (h : exec i s = .next t) :
    (∃ x, RaisesFor i x ∧ t = s.raise x) ∨ (∃ c, Computes i s c ∧ t = c.complete) ∨
      ∃ b q, Starts i s b q ∧ runSeq seqFuel ((b.setSeq q).setBusy true) = .next t := by
  rcases exec_cases i s with ⟨x, e, hx⟩ | ⟨c, e, hc⟩ | ⟨b, q, e, hb⟩ <;> rw [e] at h
  · cases h
    exact .inl ⟨x, hx, rfl⟩
  · cases h
    exact .inr (.inl ⟨c, hc, rfl⟩)
  · exact .inr (.inr ⟨b, q, hb, h⟩)

/-- What a command computes goes to the slots and the result registers only (R23, R26). -/
theorem Computes.frame {i : Instr} {s c : State} (h : Computes i s c) :
    c = { s with ch := c.ch, res0 := c.res0, res1 := c.res1, res2 := c.res2, res3 := c.res3 } := by
  cases i <;> simp only [Computes] at h
  case mkled => obtain ⟨n, d, -, -, -, rfl⟩ := h; rfl
  case mkservo => obtain ⟨n, d, -, -, -, rfl⟩ := h; rfl
  case addr => obtain ⟨d, -, rfl⟩ := h; rfl
  all_goals obtain ⟨v, rfl⟩ := h; rfl

/-- What a command computes keeps every slot sound (R22, R23). -/
theorem Computes.sound {i : Instr} {s c : State} (h : Computes i s c) (hs : ∀ n : Fin Config.nslot, s.ch[n].Sound) :
    ∀ n : Fin Config.nslot, c.ch[n].Sound := by
  have set (m : Fin Config.nslot) (d : Slot) (hd : d.Sound) (n : Fin Config.nslot) : (s.setSlot m d).ch[n].Sound := by
    by_cases hmn : m = n
    · subst hmn; simpa using hd
    · have : m.val ≠ n.val := fun e => hmn (Fin.ext e)
      simpa [Vector.getElem_set_ne _ _ this] using hs n
  cases i <;> simp only [Computes] at h
  case mkled => obtain ⟨m, d, -, -, hd, rfl⟩ := h; exact set m d hd
  case mkservo => obtain ⟨m, d, -, -, hd, rfl⟩ := h; exact set m d hd
  case addr => obtain ⟨d, -, rfl⟩ := h; exact hs
  all_goals obtain ⟨v, rfl⟩ := h; exact hs

/-- A sequence starts in the state the command found, but that `INIT` has cleared `ctl.valid` (R122); only `INIT` runs its
sequence. -/
theorem Starts.base {i : Instr} {s b : State} {q : Sequencer} (h : Starts i s b q) :
    (i ≠ .init ∧ q.op ≠ .init ∧ b = s) ∨ (i = .init ∧ b = s.setCtl false) := by
  cases i <;> simp only [Starts] at h
  case init => exact .inr ⟨rfl, h.1⟩
  case rdch => obtain ⟨c, -, hb, rfl⟩ := h; exact .inl ⟨by simp, by simp [Sequencer.start], hb⟩
  case wrch => obtain ⟨c, -, hb, rfl⟩ := h; exact .inl ⟨by simp, by simp [Sequencer.start], hb⟩
  case setrate => obtain ⟨-, hb, rfl⟩ := h; exact .inl ⟨by simp, by simp [Sequencer.start], hb⟩
  case setch => obtain ⟨-, c, -, hb, rfl⟩ := h; exact .inl ⟨by simp, by simp [Sequencer.start], hb⟩
  case setall => obtain ⟨-, hb, rfl⟩ := h; exact .inl ⟨by simp, by simp [Sequencer.start], hb⟩

/-- No Controller while `INIT` runs, a Controller while `SETRATE` or `SETALL` runs (R31, R120, R122). -/
theorem Starts.ctl {i : Instr} {s b : State} {q : Sequencer} (h : Starts i s b q) :
    (q.op = .init → b.ctlValid = false) ∧ (q.op = .setrate ∨ q.op = .setall → b.ctlValid = true) := by
  cases i <;> simp only [Starts] at h
  case init => obtain ⟨rfl, rfl⟩ := h; simp [Sequencer.start]
  case rdch => obtain ⟨c, -, -, rfl⟩ := h; simp [Sequencer.start]
  case wrch => obtain ⟨c, -, -, rfl⟩ := h; simp [Sequencer.start]
  case setch => obtain ⟨-, c, -, -, rfl⟩ := h; simp [Sequencer.start]
  case setrate => obtain ⟨hv, rfl, rfl⟩ := h; simp [Sequencer.start, hv]
  case setall => obtain ⟨hv, rfl, rfl⟩ := h; simp [Sequencer.start, hv]

/-- A run leaves everything but the sequencer, the far side and the record of events, field by field. -/
theorem SeqFrame.fields {s t : State} (h : SeqFrame s t) :
    s.SameSurroundings t ∧ t.ch = s.ch ∧ (t.res0 = s.res0 ∧ t.res1 = s.res1 ∧ t.res2 = s.res2 ∧ t.res3 = s.res3) ∧
      t.code = s.code ∧ (t.errMin = s.errMin ∧ t.errMax = s.errMax ∧ t.errVal = s.errVal ∧ t.errBus = s.errBus) ∧
      t.ctlValid = s.ctlValid ∧ t.busy = s.busy := by
  rw [h]
  exact ⟨⟨rfl, rfl, rfl⟩, rfl, ⟨rfl, rfl, rfl, rfl⟩, rfl, ⟨rfl, rfl, rfl, rfl⟩, rfl, rfl⟩

/-- A command that runs a sequence leaves the block idle at its end, with `OK` or `TRANSPORT`, and no slot written. -/
theorem Closes.ended {u t : State} (h : Closes u t) :
    t.seq = Sequencer.idle ∧ t.busy = false ∧ t.ch = u.ch ∧ (t.code = 0 ∨ t.code = 5) := by
  rcases h with ⟨ev, e, -, -, rfl⟩ | rfl
  · simp [Exn.code]
  · simp [codeOk]

/-! ### The invariant -/

/-- An idle block has a sound sequencer. -/
theorem sequencerSound_idle {t : State} (hseq : t.seq = Sequencer.idle) (hb : t.busy = false) : t.SequencerSound := by
  simp [State.SequencerSound, hseq, hb, Sequencer.idle]

/-- Every exception has a code of R161. -/
theorem Exn.code_le (x : Exn) : x.code.toNat ≤ 10 := by cases x <;> simp [Exn.code]

/-- Taking an exception ends in a state with the invariant, if the slots and the store are sound. -/
theorem inv_raise {s : State} (hs : ∀ n : Fin Config.nslot, s.ch[n].Sound) (hw : Memory.wf s.far.creg = true) (x : Exn) :
    (s.raise x).Inv :=
  ⟨by simpa using hs, sequencerSound_idle (s.raise_seq x) (s.raise_busy x), by simpa using x.code_le, by simpa using hw⟩

/-- Completing ends in a state with the invariant, if the slots and the store are sound. -/
theorem inv_complete {s : State} (hs : ∀ n : Fin Config.nslot, s.ch[n].Sound) (hw : Memory.wf s.far.creg = true) :
    s.complete.Inv :=
  ⟨hs, sequencerSound_idle rfl rfl, by simp [codeOk], hw⟩

/-- A sequencer step of a busy block that goes on keeps the invariant. -/
theorem inv_running {s t : State} (hb : s.busy = true) (hs : s.Inv) (h : seqStep s = .running t) :
    t.busy = true ∧ t.Inv := by
  obtain ⟨hslots, ⟨hrow, -, hinit, hctl⟩, hcode, hw⟩ := hs
  obtain ⟨hf, hop, -⟩ := seqStep_running h
  have hwt := seqStep_wf hw h (.inl rfl)
  have hrt := row_running (hrow hb) h
  obtain ⟨-, hch, -, hct, -, hvt, hbt⟩ := hf.fields
  rw [hb] at hbt
  refine ⟨hbt, ?_, ⟨fun _ => hrt, by simp [hbt], ?_, ?_⟩, ?_, hwt⟩
  · rw [hch]; exact hslots
  · rw [hop, hvt]; exact hinit
  · rw [hop, hvt]; exact hctl
  · rw [hct]; exact hcode

/-- A sequencer step of a busy block that stops keeps the invariant. -/
theorem inv_stopped {s t : State} (hs : s.Inv) (h : seqStep s = .stopped t) : t.Inv := by
  obtain ⟨hslots, hseq, hcode, hw⟩ := hs
  have hwt := seqStep_wf hw h (.inr rfl)
  rcases seqStep_stopped h with ⟨f, -, rfl⟩ | ⟨u, ⟨hf, -⟩, hc⟩
  · exact ⟨hslots, hseq, hcode, hwt⟩
  · obtain ⟨hidle, hb, hch, hcodes⟩ := hc.ended
    refine ⟨?_, sequencerSound_idle hidle hb, by rcases hcodes with e | e <;> rw [e] <;> decide, hwt⟩
    obtain ⟨-, hu, -⟩ := hf.fields
    rw [hch, hu]
    exact hslots

/-- A run of a busy block keeps the invariant. -/
theorem runSeq_inv {n : Nat} {s t : State} (hb : s.busy = true) (hs : s.Inv) (h : runSeq n s = .next t) : t.Inv :=
  runSeq_induct (P := fun u => u.busy = true ∧ u.Inv) (Q := State.Inv) (fun _ _ hu e => inv_running hu.1 hu.2 e)
    (fun _ _ hu e => inv_stopped hu.2 e) (fun _ hu => hu.2) n s t ⟨hb, hs⟩ h

/-- A sequence starts in a state with the invariant. -/
theorem Starts.inv {i : Instr} {s b : State} {q : Sequencer} (h : Starts i s b q) (hs : s.Inv) :
    ((b.setSeq q).setBusy true).Inv := by
  have hsound : ((b.setSeq q).setBusy true).SequencerSound := ⟨fun _ => start_row h, by simp, h.ctl⟩
  obtain ⟨hslots, -, hcode, hw⟩ := hs
  rcases h.base with ⟨-, -, rfl⟩ | ⟨-, rfl⟩ <;> exact ⟨hslots, hsound, hcode, hw⟩

/-- A command keeps the invariant. -/
theorem exec_inv {i : Instr} {s t : State} (hs : s.Inv) (h : exec i s = .next t) : t.Inv := by
  have ⟨hslots, _, _, hw⟩ := hs
  rcases exec_next h with ⟨x, -, rfl⟩ | ⟨c, hc, rfl⟩ | ⟨b, q, hb, hr⟩
  · exact inv_raise hslots hw x
  · exact inv_complete (hc.sound hslots) (by rw [hc.frame]; exact hw)
  · exact runSeq_inv rfl (hb.inv hs) hr

/-- A move of the block keeps the invariant. -/
theorem proceed_inv {s t : State} (hs : s.Inv) (h : proceed s = .next t) : t.Inv := by
  unfold proceed at h
  split at h
  · exact runSeq_inv ‹_› hs h
  · cases h; exact hs

/-- A presented word keeps the invariant. -/
theorem present_inv {w : CmdWord} {s t : State} (hs : s.Inv) (h : present w s = .next t) : t.Inv := by
  have ⟨hslots, _, _, hw⟩ := hs
  unfold present at h
  split at h
  · cases h; exact hs
  · split at h
    · exact exec_inv hs h
    · cases h; exact inv_raise hslots hw _

/-- A read of the host keeps the invariant. -/
theorem hostRead_inv {s : State} (hs : s.Inv) (n : Nat) : (hostRead n s).Inv := by
  unfold hostRead
  split <;> exact hs

/-- A reset while busy leaves the store as it was, or with one more byte written (R192). -/
theorem abandonedFar_wf {s : State} (h : Memory.wf s.far.creg = true) : Memory.wf (abandonedFar s).creg = true := by
  unfold abandonedFar
  split
  · split
    · exact Memory.write_wf _ _ _ h
    · exact h
  · exact h

/-- Reset brings about the invariant but for the store, which it does not touch. -/
theorem inv_reset {s : State} (hw : Memory.wf s.far.creg = true) : (applyReset s).Inv := by
  refine ⟨fun n => ?_, sequencerSound_idle rfl rfl, Nat.zero_le _, abandonedFar_wf hw⟩
  have : (applyReset s).ch[n] = Slot.empty := by simp [applyReset, State.reset]
  rw [this]
  decide

/-- Settles O13: all slots are empty, the block is idle, the store is empty. -/
theorem resetMeetsInvariant : Obligations.ResetMeetsInvariant :=
  inv_reset (s := State.reset) rfl

/-- Settles O14: whoever acts in the step, the block or the host, keeps the invariant. -/
theorem stepKeepsInvariant : Obligations.StepKeepsInvariant := by
  intro s t hs h
  have ⟨_, _, _, hw⟩ := hs
  have hhost (l : List HostAct) : (s.setHost l).Inv := hs
  unfold step at h
  split at h
  · exact proceed_inv hs h
  · exact proceed_inv (hhost _) h
  · exact present_inv (hhost _) h
  · cases h; exact hostRead_inv (hhost _) _
  · cases h; exact inv_reset hw

end Sys2Proof.Machine
end

section
/-! The whole-machine rules: nothing stops the machine (R166, R168); what a move of the block writes (R23, R27 to R30, R34). -/

namespace Sys2Proof.Machine

/-! ### Nothing stops the machine -/

/-- Every command answers a next state. -/
theorem exec_total (i : Instr) (s : State) : ∃ t, exec i s = .next t := by
  rcases exec_cases i s with ⟨x, e, -⟩ | ⟨c, e, -⟩ | ⟨b, q, e, hb⟩
  · exact ⟨_, e⟩
  · exact ⟨_, e⟩
  · rw [e]
    exact runSeq_next seqFuel (s := (b.setSeq q).setBusy true) (start_row hb)

/-- A block that is idle, or stands in a row, always moves. -/
theorem proceed_total {s : State} (h : s.busy = true → s.seq.action.isSome = true) : ∃ t, proceed s = .next t := by
  unfold proceed
  split
  · exact runSeq_next seqFuel (h ‹_›)
  · exact ⟨s, rfl⟩

/-- Every presented word is ignored, executed or refused with a next state. -/
theorem present_total (w : CmdWord) (s : State) : ∃ t, present w s = .next t := by
  unfold present
  split
  · exact ⟨s, rfl⟩
  · split
    · exact exec_total _ s
    · exact ⟨_, rfl⟩

/-- Settles O15: the only fault is a busy block in no row, which the invariant excludes. -/
theorem nothingStopsTheMachine : Obligations.NothingStopsTheMachine := by
  refine ⟨exec_total, fun s hs => ?_⟩
  obtain ⟨-, ⟨hrow, -⟩, -⟩ := hs
  unfold step
  split
  · exact proceed_total hrow
  · exact proceed_total hrow
  · exact present_total _ _
  · exact ⟨_, rfl⟩
  · exact ⟨_, rfl⟩

/-! ### A slot changes only by a constructor -/

/-- How `MKLED` ends (R102). -/
theorem execMkled_cases (slot : Byte) (index : Half) (s : State) :
    (∃ x, exec (.mkled slot index) s = .next (s.raise x)) ∨
    ∃ n : Fin Config.nslot, slot.toNat = n.val ∧
      exec (.mkled slot index) s = .next (s.setSlot n ⟨true, .led, index.setWidth 4, 0, 0⟩).complete := by
  rcases newSlot_cases slot with ⟨hn, h1⟩ | ⟨-, h1⟩
  · rcases checkIndex_cases index with ⟨-, h2⟩ | ⟨-, h2⟩
    · exact .inr ⟨⟨slot.toNat, hn⟩, rfl, by simp only [exec, execMkled, h1, h2]; rfl⟩
    · exact .inl ⟨_, by simp only [exec, execMkled, h1, h2]; rfl⟩
  · exact .inl ⟨_, by simp only [exec, execMkled, h1]; rfl⟩

/-- How `MKSERVO` ends (R141). -/
theorem execMkservo_cases (slot : Byte) (index mn mx : Half) (s : State) :
    (∃ x, exec (.mkservo slot index mn mx) s = .next (s.raise x)) ∨
    ∃ n : Fin Config.nslot, slot.toNat = n.val ∧ exec (.mkservo slot index mn mx) s =
      .next (s.setSlot n ⟨true, .servo, index.setWidth 4, mn.setWidth 12, mx.setWidth 12⟩).complete := by
  rcases newSlot_cases slot with ⟨hn, h1⟩ | ⟨-, h1⟩
  · rcases checkIndex_cases index with ⟨-, h2⟩ | ⟨-, h2⟩
    · rcases checkSettings_cases mn mx with ⟨-, -, -, h3⟩ | ⟨_, _, _, h3⟩
      · exact .inr ⟨⟨slot.toNat, hn⟩, rfl, by simp only [exec, execMkservo, h1, h2, h3]; rfl⟩
      · exact .inl ⟨_, by simp only [exec, execMkservo, h1, h2, h3]; rfl⟩
    · exact .inl ⟨_, by simp only [exec, execMkservo, h1, h2]; rfl⟩
  · exact .inl ⟨_, by simp only [exec, execMkservo, h1]; rfl⟩

/-- A written slot holds what was written, and every other slot what it held (R23). -/
theorem setSlot_changed {s : State} {n k : Fin Config.nslot} {c : Slot}
    (h : (s.setSlot n c).ch[k] ≠ s.ch[k]) : n = k ∧ (s.setSlot n c).ch[k] = c := by
  by_cases hnk : n = k
  · subst hnk
    exact ⟨rfl, by simp⟩
  · have : n.val ≠ k.val := fun e => hnk (Fin.ext e)
    exact absurd (by simp [Vector.getElem_set_ne _ _ this]) h

/-- A run writes no slot (R23). -/
theorem runSeq_ch {n : Nat} {s t : State} (h : runSeq n s = .next t) : t.ch = s.ch := by
  obtain ⟨u, ⟨hf, -⟩, hend⟩ := runSeq_end h
  obtain ⟨-, hu, -⟩ := hf.fields
  rcases hend with rfl | hc
  · exact hu
  · obtain ⟨-, -, ht, -⟩ := hc.ended
    exact ht.trans hu

/-- A move of the block under way writes no slot (R23). -/
theorem proceed_ch {s t : State} (h : proceed s = .next t) : t.ch = s.ch := by
  unfold proceed at h
  split at h
  · exact runSeq_ch h
  · cases h; rfl

/-- Every command but the two constructors leaves the slots as they are (R23). -/
theorem exec_ch {i : Instr} {s t : State} (hled : ∀ slot index, i ≠ .mkled slot index)
    (hservo : ∀ slot index mn mx, i ≠ .mkservo slot index mn mx) (h : exec i s = .next t) : t.ch = s.ch := by
  rcases exec_next h with ⟨x, -, rfl⟩ | ⟨c, hc, rfl⟩ | ⟨b, q, hb, hr⟩
  · simp
  · cases i <;> simp only [Computes] at hc
    case mkled slot index => exact absurd rfl (hled slot index)
    case mkservo slot index mn mx => exact absurd rfl (hservo slot index mn mx)
    case addr => obtain ⟨d, -, rfl⟩ := hc; rfl
    all_goals obtain ⟨v, rfl⟩ := hc; rfl
  · rw [runSeq_ch hr]
    rcases hb.base with ⟨-, -, rfl⟩ | ⟨-, rfl⟩ <;> rfl

/-- A command that changes a slot is a constructor naming it, and has succeeded (R23, R102, R141). -/
theorem exec_slot_changed {i : Instr} {s t : State} {k : Fin Config.nslot} (h : exec i s = .next t)
    (hk : t.ch[k] ≠ s.ch[k]) :
    ∃ slot index, slot.toNat = k.val ∧ t.code = 0 ∧
      (i = .mkled slot index ∧ t.ch[k] = ⟨true, .led, index.extractLsb' 0 4, 0, 0⟩ ∨
       ∃ mn mx, i = .mkservo slot index mn mx ∧
        t.ch[k] = ⟨true, .servo, index.extractLsb' 0 4, mn.extractLsb' 0 12, mx.extractLsb' 0 12⟩) := by
  by_cases hled : ∃ slot index, i = .mkled slot index
  · obtain ⟨slot, index, rfl⟩ := hled
    rcases execMkled_cases slot index s with ⟨x, e⟩ | ⟨n, hn, e⟩ <;> rw [e] at h <;> cases h
    · simp at hk
    · obtain ⟨rfl, hc⟩ := setSlot_changed hk
      exact ⟨slot, index, hn, rfl, .inl ⟨rfl, by rw [State.complete_ch, hc, BitVec.setWidth_eq_extractLsb' (by decide)]⟩⟩
  by_cases hservo : ∃ slot index mn mx, i = .mkservo slot index mn mx
  · obtain ⟨slot, index, mn, mx, rfl⟩ := hservo
    rcases execMkservo_cases slot index mn mx s with ⟨x, e⟩ | ⟨n, hn, e⟩ <;> rw [e] at h <;> cases h
    · simp at hk
    · obtain ⟨rfl, hc⟩ := setSlot_changed hk
      refine ⟨slot, index, hn, rfl, .inr ⟨mn, mx, rfl, ?_⟩⟩
      rw [State.complete_ch, hc]
      simp only [BitVec.setWidth_eq_extractLsb', Nat.reduceLeDiff]
  · push Not at hled hservo
    exact absurd (by rw [exec_ch hled hservo h]) hk

/-- A presented word that changes a slot is accepted and decodes to a command that does (R23, R35, R86). -/
theorem present_slot_changed {w : CmdWord} {s t : State} {k : Fin Config.nslot} (h : present w s = .next t)
    (hk : t.ch[k] ≠ s.ch[k]) : s.busy = false ∧ ∃ i, decode w = .ok i ∧ exec i s = .next t := by
  unfold present at h
  split at h
  · cases h; exact absurd rfl hk
  · rename_i hb
    refine ⟨by simpa using hb, ?_⟩
    split at h
    · exact ⟨_, ‹_›, h⟩
    · cases h; simp at hk

/-- Settles O16: a move of the block and a read leave the slots, a word changes one only as a constructor, and reset clears
them. -/
theorem slotsChangeOnlyByConstructors : Obligations.SlotsChangeOnlyByConstructors := by
  intro s t k h hk
  unfold step at h
  split at h
  next => exact absurd (by rw [proceed_ch h]) hk
  next l hl => exact absurd (by rw [proceed_ch h]; rfl) hk
  next w l hl =>
    obtain ⟨hb, i, hw, he⟩ := present_slot_changed h hk
    obtain ⟨slot, index, hn, hcode, hi⟩ := exec_slot_changed he hk
    refine .inr ⟨w, l, slot, index, hl, hb, hn, hcode, ?_⟩
    rcases hi with ⟨rfl, hc⟩ | ⟨mn, mx, rfl, hc⟩
    · exact .inl ⟨hw, hc⟩
    · exact .inr ⟨mn, mx, hw, hc⟩
  next n l hl =>
    cases h
    refine absurd ?_ hk
    unfold hostRead
    split <;> rfl
  next l hl =>
    cases h
    exact .inl ⟨l, hl, by simp [applyReset, State.reset, Slot.empty]⟩

/-! ### What a move writes -/

/-- A command is under way in `u`, and since `s` only `ctl.valid`, the sequencer, the far side and the record of events have
changed, with no access failed. -/
structure Pending (s u : State) : Prop where
  frame : u = { s with ctlValid := u.ctlValid, seq := u.seq, busy := true, far := u.far, events := u.events }
  events : ∃ evs, u.events = s.events ++ evs ∧ ∀ ev ∈ evs, ev.error = none

/-- A sequence leaves what it found while it is under way. -/
theorem Pending.of_runsFrom {s b u : State} {v : Bool} {q : Sequencer}
    (hb : b = { s with ctlValid := v, seq := q, busy := true }) (h : RunsFrom b u) : Pending s u := by
  obtain ⟨hf, -, evs, he, hev⟩ := h
  subst hb
  exact ⟨by rw [hf], evs, he, fun ev hm => (hev ev hm).1⟩

/-- Everything a move of the block can do: it takes an exception, it computes and completes, or it has been under way and
waits or has ended. -/
theorem moves_cases {s t : State} (h : s.Moves t) :
    (∃ i x, RaisesFor i x ∧ t = s.raise x) ∨ (∃ i c, Computes i s c ∧ t = c.complete) ∨
      ∃ u, Pending s u ∧ (t = u ∨ Closes u t) := by
  rcases h with ⟨i, h⟩ | ⟨hb, h⟩
  · rcases exec_next h with ⟨x, hx, e⟩ | ⟨c, hc, e⟩ | ⟨b, q, hs, hr⟩
    · exact .inl ⟨i, x, hx, e⟩
    · exact .inr (.inl ⟨i, c, hc, e⟩)
    · obtain ⟨u, hu, hend⟩ := runSeq_end hr
      refine .inr (.inr ⟨u, ?_, hend⟩)
      rcases hs.base with ⟨-, -, rfl⟩ | ⟨-, rfl⟩
      · exact .of_runsFrom (v := b.ctlValid) (q := q) rfl hu
      · exact .of_runsFrom (v := false) (q := q) rfl hu
  · simp only [proceed, hb, if_true] at h
    obtain ⟨u, hu, hend⟩ := runSeq_end h
    exact .inr (.inr ⟨u, .of_runsFrom (v := s.ctlValid) (q := s.seq) (by rw [← hb]) hu, hend⟩)

/-- An exception writes the range registers only as a RangeError, `ERRBUS` only as a TransportError (R29, R30, R166). -/
theorem raise_errors_class (s : State) (x : Exn) :
    (x.code.toNat ∈ [1, 2, 3, 4] ∨
      ((s.raise x).errMin = s.errMin ∧ (s.raise x).errMax = s.errMax ∧ (s.raise x).errVal = s.errVal)) ∧
    (x.code = 5 ∨ (s.raise x).errBus = s.errBus) := by
  cases x <;> simp [Exn.code, State.raise, State.setErrors]

/-- Settles O20: an exception writes no result register and no slot; every other end has the code `OK`. -/
theorem failedCommandWritesNoResult : Obligations.FailedCommandWritesNoResult := by
  intro s t h hb hcode
  rcases moves_cases h with ⟨i, x, -, rfl⟩ | ⟨i, c, -, rfl⟩ | ⟨u, hu, rfl | ⟨ev, e, -, -, rfl⟩ | rfl⟩
  · simp
  · exact absurd rfl hcode
  · rw [hu.frame] at hb
    cases hb
  · rw [hu.frame]
    simp
  · exact absurd rfl hcode

/-- Settles O22: only an exception writes an error register, by its class. -/
theorem errorRegistersFollowTheirClass : Obligations.ErrorRegistersFollowTheirClass := by
  intro s t h
  rcases moves_cases h with ⟨i, x, -, rfl⟩ | ⟨i, c, hc, rfl⟩ | ⟨u, hu, rfl | ⟨ev, e, -, -, rfl⟩ | rfl⟩
  · obtain ⟨hrange, hbus⟩ := raise_errors_class s x
    refine ⟨fun hne => ?_, fun hne => ?_⟩
    · rw [State.raise_code]
      refine hrange.resolve_right fun ⟨h1, h2, h3⟩ => hne ?_
      rw [h1, h2, h3]
    · rw [State.raise_code]
      exact hbus.resolve_right hne
  · rw [hc.frame]
    simp
  · rw [hu.frame]
    simp
  · rw [hu.frame]
    simp [Exn.code, State.raise, State.setErrors]
  · rw [hu.frame]
    simp

/-- Settles O24: a block that is still busy has not ended, so what it has done is what a pending command does. -/
theorem waitingCommandHasWrittenNothing : Obligations.WaitingCommandHasWrittenNothing := by
  intro s t h hb
  rcases moves_cases h with ⟨i, x, -, rfl⟩ | ⟨i, c, -, rfl⟩ | ⟨u, hu, rfl | hc⟩
  · simp at hb
  · cases hb
  · obtain ⟨evs, he, hev⟩ := hu.events
    rw [hu.frame]
    exact ⟨rfl, rfl, rfl, rfl, rfl, rfl, rfl, rfl, rfl, rfl, evs, he, hev⟩
  · obtain ⟨-, hidle, -⟩ := hc.ended
    simp [hidle] at hb

end Sys2Proof.Machine
end

section
/-! The host port: presented words (R35, R88), register reads (R36, R40), and the values after reset (R38). -/

namespace Sys2Proof

/-- Decoding the word of a command gives the command back (R84, R85): the decoder reads the five fields the word was packed
from, and a byte operand out of the field it was put in. -/
theorem decode_encode (i : Instr) : decode (encode i) = .ok i := by
  cases i <;> rw [encode, decode_packWord] <;> simp [decodeFields, require, lowByte_append, highByte_append]

/-- A word of 64 bits is the table word of its number (R80). -/
theorem tableWord_toNat (w : CmdWord) : tableWord 64 w.toNat = w := by
  rw [tableWord, Nat.mod_eq_of_lt w.isLt, BitVec.ofNat_toNat, BitVec.setWidth_eq]

end Sys2Proof

namespace Sys2Proof.Machine

/-! ### Presented words -/

/-- An idle block executes the command it is given (R35, R88). -/
theorem present_idle {s : State} {w : CmdWord} {i : Instr} (hb : s.busy = false) (hw : decode w = .ok i) :
    present w s = exec i s := by
  simp [present, hb, hw]

/-- A busy block ignores what it is given (R35). -/
theorem present_busy {s : State} (hb : s.busy = true) (w : CmdWord) : present w s = .next s := by
  simp [present, hb]

/-- An idle block that is left alone waits (R190). -/
theorem proceed_idle {s : State} (hb : s.busy = false) : proceed s = .next s := by
  simp [proceed, hb]

/-- The step in which the host presents a word. -/
theorem step_command {s : State} {w : CmdWord} {h : List HostAct} (hh : s.host = .command w :: h) :
    step s = present w (s.setHost h) := by
  simp only [step, hh]

/-- Settles O1: the step is the presenting of the word, and `withFetchWord` presents the word that decodes to the command. -/
theorem stepRunsDecodedCommand : Obligations.StepRunsDecodedCommand := by
  refine ⟨fun s w h i hb hh hw => ?_, fun s i hb => ?_, fun s hh => ?_, fun s h hh => ?_, fun s hb => proceed_idle hb⟩
  · rw [step_command hh]
    exact present_idle (s := s.setHost h) hb hw
  · have hf : s.withFetchWord 64 (encode i).toNat = s.setHost (.command (encode i) :: s.host) := by
      simp [State.withFetchWord, hb, tableWord_toNat]
    rw [hf, step_command (State.setHost_host ..)]
    exact present_idle (s := s) hb (decode_encode i)
  · simp only [step, hh]
  · simp only [step, hh]
    rfl

/-- Settles O7: only the host's action is used up. -/
theorem busyBlockIgnoresCommand : Obligations.BusyBlockIgnoresCommand := by
  intro s w h hb hh
  rw [step_command hh]
  exact present_busy (s := s.setHost h) hb w

/-! ### Register reads -/

/-- The step in which the host reads a register. -/
theorem step_read {s : State} {n : Nat} {h : List HostAct} (hh : s.host = .read n :: h) :
    step s = .next (hostRead n (s.setHost h)) := by
  simp only [step, hh]

/-- A read of an idle block returns the register's value (R36, R40). -/
theorem hostRead_idle {s : State} (hb : s.busy = false) (n : Nat) : hostRead n s = s.logRead n (regValue s n) := by
  simp [hostRead, hb]

/-- A read of a busy block uses up one free value (R36). -/
theorem hostRead_busy {s : State} (hb : s.busy = true) (n : Nat) :
    hostRead n s = (s.logRead n (busyValue s n)).draw := by
  simp [hostRead, hb]

/-- A 16-bit register is read with zeros above it (R40). -/
theorem zero_append_half (v : Half) : (0#16 ++ v : Word32) = v.setWidth 32 :=
  (BitVec.setWidth_eq_append (by decide)).symm

/-- `CTL` is one bit, with zeros above it (R40). -/
theorem zero_append_bit (b : Bool) : (0#31 ++ bit b : Word32) = if b then 1 else 0 := by
  cases b <;> rfl

/-! The layout of a slot (R40): each field is found by dropping the fields below it. -/

theorem toWord_valid (c : Slot) : c.toWord.getLsbD 31 = c.valid := by
  simp only [Slot.toWord, BitVec.getLsbD_append]
  exact BitVec.getLsbD_ofBool c.valid 0

theorem toWord_kind (c : Slot) : c.toWord.getLsbD 30 = true ↔ c.kind = .servo := by
  simp only [Slot.toWord, BitVec.getLsbD_append]
  cases c.kind <;> simp [Kind.toBit]

theorem toWord_zeros (c : Slot) : c.toWord.extractLsb' 28 2 = 0 := by
  rw [Slot.toWord, BitVec.extractLsb'_append_eq_of_le (by decide), BitVec.extractLsb'_append_eq_of_le (by decide),
    BitVec.extractLsb'_append_eq_of_le (by decide)]
  exact BitVec.extractLsb'_append_eq_right

theorem toWord_index (c : Slot) : c.toWord.extractLsb' 24 4 = c.index := by
  rw [Slot.toWord, BitVec.extractLsb'_append_eq_of_le (by decide), BitVec.extractLsb'_append_eq_of_le (by decide)]
  exact BitVec.extractLsb'_append_eq_right

theorem toWord_minTick (c : Slot) : c.toWord.extractLsb' 12 12 = c.minTick := by
  rw [Slot.toWord, BitVec.extractLsb'_append_eq_of_le (by decide)]
  exact BitVec.extractLsb'_append_eq_right

theorem toWord_maxTick (c : Slot) : c.toWord.extractLsb' 0 12 = c.maxTick := BitVec.extractLsb'_append_eq_right

/-- From number 10 on, a number names a slot or nothing (R40). -/
theorem regValue_of_ge (s : State) {n : Nat} (h : 10 ≤ n) :
    regValue s n = if h : 16 ≤ n ∧ n < 16 + Config.nslot then (s.ch[n - 16]).toWord else 0 := by
  obtain ⟨m, rfl⟩ := Nat.exists_eq_add_of_le' h
  rfl

/-- The registers of the slots (R40). -/
theorem regValue_slot (s : State) (k : Fin 16) : regValue s (16 + k.val) = s.ch[k].toWord := by
  rw [regValue_of_ge s (by omega), dif_pos ⟨by omega, Nat.add_lt_add_left k.isLt 16⟩]
  simp

/-- A number that names no register reads 0 (R40). -/
theorem regValue_none {s : State} {n : Nat} (h : 10 ≤ n ∧ n ≤ 15 ∨ 32 ≤ n) : regValue s n = 0 := by
  rw [regValue_of_ge s (by omega), dif_neg (by simp only [Config.nslot]; omega)]

/-- Settles O8: the value read is the register's, field by field. -/
theorem idleReadReturnsRegister : Obligations.IdleReadReturnsRegister := by
  intro s n h hb hh
  refine ⟨regValue (s.setHost h) n, ?_, ?_, ?_, ?_, ?_, ?_, ?_, ?_, ?_, ?_, ?_, ?_, regValue_none⟩
  · rw [step_read hh, hostRead_idle (s := s.setHost h) hb]
    rfl
  · rintro rfl
    simp only [regValue, State.setHost_busy, hb]
    exact statusWord_idle s.code
  · rintro rfl; exact zero_append_bit _
  · rintro rfl; exact zero_append_half _
  · rintro rfl; exact zero_append_half _
  · rintro rfl; exact zero_append_half _
  · rintro rfl; exact zero_append_half _
  · rintro rfl; rfl
  · rintro rfl; rfl
  · rintro rfl; rfl
  · rintro rfl; rfl
  · rintro k rfl
    rw [regValue_slot]
    exact ⟨toWord_valid _, toWord_kind _, toWord_zeros _, toWord_index _, toWord_minTick _, toWord_maxTick _⟩

/-- Settles O9: the value read is the free one of log entry 6, and `STATUS` has its fixed bits. -/
theorem busyReadShowsBusy : Obligations.BusyReadShowsBusy := by
  intro s n h hb hh
  refine ⟨busyValue (s.setHost h) n, ?_, ?_, fun hn => ?_⟩
  · rw [step_read hh, hostRead_busy (s := s.setHost h) hb]
    rfl
  · rintro rfl
    exact ⟨statusWord_busy _ _, statusWord_high _ _⟩
  · rcases busyValue_cases (s.setHost h) n with ⟨rfl, -⟩ | ⟨-, hr⟩ | ⟨-, hv⟩
    · omega
    · rw [isReg_iff] at hr
      omega
    · exact hv

/-! ### The values after reset -/

/-- Settles O10: every slot is the empty one, and the other registers are stated outright. -/
theorem resetGivesStatedValues : Obligations.ResetGivesStatedValues :=
  ⟨fun k => by simp [State.reset, Slot.empty], rfl, rfl, rfl, rfl, rfl⟩

end Sys2Proof.Machine
end

section
/-! The frames of the commands (R23, R26, R60, R107, R122, R125, R130, R131, R166, R167): what each family leaves unchanged,
however it ends or waits. -/

namespace Sys2Proof.Machine

/-! ### The store: a run writes only where the rows of its table write -/

theorem State.SameStoreBut.of_creg {s t : State} {L : List Byte} (h : t.far.creg = s.far.creg) : s.SameStoreBut t L :=
  fun a _ => by rw [h]

theorem State.SameStoreBut.of_write {s t : State} {L : List Byte} {a v : Byte} (ha : a ∈ L)
    (h : t.far.creg = Memory.write s.far.creg a v) : s.SameStoreBut t L := fun c hc => by
  rw [h]
  exact Memory.read_write_other _ v fun e => hc (e ▸ ha)

theorem State.SameStoreBut.trans {s t u : State} {L : List Byte} (h : s.SameStoreBut t L) (g : t.SameStoreBut u L) :
    s.SameStoreBut u L := fun a ha => (g a ha).trans (h a ha)

/-- What follows a row's own action leaves the far side alone. -/
theorem advance_far {u t : State} (h : u.advance = .running t ∨ u.advance = .stopped t) : t.far = u.far := by
  rcases advance_cases u with ⟨-, e⟩ | ⟨-, e⟩ <;> rw [e] at h <;> rcases h with h | h <;> cases h
  · simp
  · rfl

/-- A sequencer step leaves the store as it was, or with the byte of its row written (R60). -/
theorem seqStep_store {s t : State} (h : seqStep s = .running t ∨ seqStep s = .stopped t) :
    t.far.creg = s.far.creg ∨ ∃ a v, s.seq.action = some (.write a v) ∧ t.far.creg = Memory.write s.far.creg a v := by
  have ends {u : State} (e : seqStep s = .stopped u) : t = u := by
    rw [e] at h
    rcases h with h | h <;> cases h
    rfl
  have advances {u : State} (e : seqStep s = u.advance) : t.far = u.far := advance_far (by rwa [e] at h)
  rcases seqStep_cases s rfl with ⟨e, -⟩ | ⟨f, e, hf⟩ | ⟨a, x, -, e⟩ | ⟨a, v, x, ha, e⟩ | ⟨a, b, -, e⟩ |
    ⟨a, v, ha, hw, e⟩ | ⟨-, e⟩ | ⟨-, e⟩
  · simp [e] at h
  · rw [ends e]; exact .inl hf
  · rw [ends e]; exact .inl (by simp)
  · rw [ends e]
    exact (s.far.write_creg a v).imp (by simp) fun hw => ⟨a, v, ha, by simpa using hw⟩
  · rw [advances e]; exact .inl (by simp)
  · rw [advances e]; exact .inr ⟨a, v, ha, by simpa using hw⟩
  · rw [advances e]; exact .inl (by simp)
  · rw [advances e]; exact .inl rfl

theorem latch_index (q : Sequencer) (b : Byte) : (q.latch b).index = q.index := by
  simp only [Sequencer.latch]; split <;> (try split) <;> rfl

/-- The channel index stays latched while a sequence runs (log entry 8). -/
theorem seqStep_running_index {s t : State} (h : seqStep s = .running t) : t.seq.index = s.seq.index := by
  have advances {u : State} (e : .running t = u.advance) : t.seq.index = u.seq.index := by
    rcases advance_cases u with ⟨-, e'⟩ | ⟨-, e'⟩ <;> rw [e'] at e <;> cases e
    rfl
  rcases seqStep_cases s h with ⟨e, -⟩ | ⟨f, e, -⟩ | ⟨a, x, -, e⟩ | ⟨a, v, x, -, e⟩ | ⟨a, b, -, e⟩ | ⟨a, v, -, -, e⟩ |
    ⟨-, e⟩ | ⟨-, e⟩
  · cases e
  · cases e
  · cases e
  · cases e
  · exact (advances e).trans (latch_index s.seq b)
  · exact (advances e).trans rfl
  · exact (advances e).trans rfl
  · exact advances e

/-- The rows of this sequence for this channel write only at these addresses. -/
def SeqOp.WritesOnly (op : SeqOp) (i : BitVec 4) (L : List Byte) : Prop :=
  ∀ q : Sequencer, q.op = op → q.index = i → ∀ a v, q.action = some (.write a v) → a ∈ L

theorem writesOnly_rdch (i : BitVec 4) : SeqOp.rdch.WritesOnly i [] := by
  intro q hop _ a v h
  simp only [Sequencer.action, hop] at h
  split at h <;> cases h

theorem writesOnly_wrch (i : BitVec 4) : SeqOp.wrch.WritesOnly i
    [busAddr (quad i).onLow, busAddr (quad i).onHigh, busAddr (quad i).offLow, busAddr (quad i).offHigh] := by
  intro q hop hi a v h
  simp only [Sequencer.action, hop, hi] at h
  split at h <;> cases h <;> simp

theorem writesOnly_init (i : BitVec 4) : SeqOp.init.WritesOnly i [0x00, 0x01] := by
  intro q hop _ a v h
  simp only [Sequencer.action, hop] at h
  split at h <;> cases h <;> simp [mode1, mode2]

theorem writesOnly_setrate (i : BitVec 4) : SeqOp.setrate.WritesOnly i [0x00, 0xFE] := by
  intro q hop _ a v h
  simp only [Sequencer.action, hop] at h
  split at h <;> cases h <;> simp [mode1, preScale]

theorem writesOnly_setall (i : BitVec 4) : SeqOp.setall.WritesOnly i [0xFA, 0xFB, 0xFC, 0xFD] := by
  intro q hop _ a v h
  simp only [Sequencer.action, hop] at h
  split at h <;> cases h <;> simp [busAddr, allLed]

/-- A run writes only where the rows of its sequence write. -/
theorem runSeq_store {n : Nat} {s t : State} {L : List Byte} (hL : s.seq.op.WritesOnly s.seq.index L)
    (h : runSeq n s = .next t) : s.SameStoreBut t L := by
  have step {u v : State} (hop : u.seq.op = s.seq.op) (hi : u.seq.index = s.seq.index)
      (e : seqStep u = .running v ∨ seqStep u = .stopped v) : u.SameStoreBut v L := by
    rcases seqStep_store e with hc | ⟨a, x, ha, hc⟩
    · exact .of_creg hc
    · exact .of_write (hL u.seq hop hi a x ha) hc
  refine runSeq_induct (Q := fun u => s.SameStoreBut u L)
    (P := fun u => u.seq.op = s.seq.op ∧ u.seq.index = s.seq.index ∧ s.SameStoreBut u L) ?_ ?_ ?_ n s t
    ⟨rfl, rfl, .of_creg rfl⟩ h
  · rintro u v ⟨hop, hi, hst⟩ e
    obtain ⟨-, hop', -⟩ := seqStep_running e
    exact ⟨hop'.trans hop, (seqStep_running_index e).trans hi, hst.trans (step hop hi (.inl e))⟩
  · rintro u v ⟨hop, hi, hst⟩ e
    exact hst.trans (step hop hi (.inr e))
  · exact fun u hu => hu.2.2

/-- A command writes only where the sequence it starts writes. -/
theorem exec_store {i : Instr} {s t : State} {L : List Byte}
    (hL : ∀ b q, Starts i s b q → q.op.WritesOnly q.index L) (h : exec i s = .next t) : s.SameStoreBut t L := by
  rcases exec_next h with ⟨x, -, rfl⟩ | ⟨c, hc, rfl⟩ | ⟨b, q, hb, hr⟩
  · exact .of_creg (by simp)
  · rw [hc.frame]
    exact .of_creg rfl
  · have hfar : b.far = s.far := by rcases hb.base with ⟨-, -, rfl⟩ | ⟨-, rfl⟩ <;> rfl
    intro a ha
    rw [← hfar]
    exact runSeq_store (s := (b.setSeq q).setBusy true) (hL b q hb) hr a ha

/-! ### The registers -/

/-- The result registers are the same. -/
def State.SameResults (s t : State) : Prop :=
  t.res0 = s.res0 ∧ t.res1 = s.res1 ∧ t.res2 = s.res2 ∧ t.res3 = s.res3

/-- The range registers are the same. -/
def State.SameRange (s t : State) : Prop := t.errMin = s.errMin ∧ t.errMax = s.errMax ∧ t.errVal = s.errVal

theorem commit_results {s : State} (h : s.seq.op ≠ .rdch) : s.SameResults s.commit := by
  unfold State.commit
  split
  · exact absurd ‹_› h
  · exact ⟨rfl, rfl, rfl, rfl⟩
  · exact ⟨rfl, rfl, rfl, rfl⟩

theorem commit_ctlValid {s : State} (h : s.seq.op ≠ .init) : s.commit.ctlValid = s.ctlValid := by
  unfold State.commit
  split
  · rfl
  · exact absurd ‹_› h
  · rfl

/-- What a run leaves, however it ends: only `RDCH` commits results, only `INIT` creates the Controller. -/
theorem runSeq_frame {n : Nat} {s t : State} (h : runSeq n s = .next t) :
    s.SameSurroundings t ∧ s.SameRange t ∧ (s.seq.op ≠ .rdch → s.SameResults t) ∧
      (s.seq.op ≠ .init → t.ctlValid = s.ctlValid) := by
  obtain ⟨u, ⟨hf, hop, -⟩, hend⟩ := runSeq_end h
  obtain ⟨⟨hh, hl, hn⟩, -, ⟨h0, h1, h2, h3⟩, -, ⟨he, hx, hv, -⟩, hctl, -⟩ := hf.fields
  rcases hend with rfl | ⟨ev, e, -, -, rfl⟩ | rfl
  · exact ⟨⟨hh, hl, hn⟩, ⟨he, hx, hv⟩, fun _ => ⟨h0, h1, h2, h3⟩, fun _ => hctl⟩
  · obtain ⟨re, rx, rv⟩ := (raise_errors_class (u.log ev) (.transport e)).1.resolve_left (by simp [Exn.code])
    simp [State.SameSurroundings, State.SameRange, State.SameResults, re, rx, rv, hh, hl, hn, he, hx, hv, h0, h1, h2, h3,
      hctl]
  · refine ⟨by simp [State.SameSurroundings, hh, hl, hn], by simp [State.SameRange, he, hx, hv], fun hne => ?_,
      fun hne => ?_⟩
    · obtain ⟨c0, c1, c2, c3⟩ := commit_results (hop ▸ hne)
      simp [State.SameResults, c0, c1, c2, c3, h0, h1, h2, h3]
    · simp [commit_ctlValid (hop ▸ hne), hctl]

/-- What a sequence starts from is what the command found, but for `ctl.valid`, the sequencer and `busy`. -/
theorem Starts.frame {i : Instr} {s b : State} {q : Sequencer} (h : Starts i s b q) :
    (b.setSeq q).setBusy true = { s with ctlValid := b.ctlValid, seq := q, busy := true } := by
  rcases h.base with ⟨-, -, rfl⟩ | ⟨-, rfl⟩ <;> rfl

/-- No command touches the host's actions, its record of reads, or the counter of free values. -/
theorem exec_surroundings {i : Instr} {s t : State} (h : exec i s = .next t) : s.SameSurroundings t := by
  rcases exec_next h with ⟨x, -, rfl⟩ | ⟨c, hc, rfl⟩ | ⟨b, q, hb, hr⟩
  · simp [State.SameSurroundings]
  · rw [hc.frame]
    exact ⟨rfl, rfl, rfl⟩
  · rw [hb.frame] at hr
    exact (runSeq_frame hr).1

/-- A command whose row has no RangeError leaves the range registers as they are (R29, R170). -/
theorem exec_range {i : Instr} {s t : State} (hi : ∀ c ∈ mayReport i, c.toNat ∉ [1, 2, 3, 4])
    (h : exec i s = .next t) : s.SameRange t := by
  rcases exec_next h with ⟨x, ⟨hx, -⟩, rfl⟩ | ⟨c, hc, rfl⟩ | ⟨b, q, hb, hr⟩
  · exact (raise_errors_class s x).1.resolve_left (hi _ hx)
  · rw [hc.frame]
    exact ⟨rfl, rfl, rfl⟩
  · rw [hb.frame] at hr
    exact (runSeq_frame hr).2.1

/-- A command that neither computes a result nor starts `RDCH` leaves the result registers as they are (R26). -/
theorem exec_results {i : Instr} {s t : State} (hc : ∀ c, Computes i s c → s.SameResults c)
    (hq : ∀ b q, Starts i s b q → q.op ≠ .rdch) (h : exec i s = .next t) : s.SameResults t := by
  rcases exec_next h with ⟨x, -, rfl⟩ | ⟨c, hcomp, rfl⟩ | ⟨b, q, hb, hr⟩
  · simp [State.SameResults]
  · exact hc c hcomp
  · rw [hb.frame] at hr
    obtain ⟨-, -, hres, -⟩ := runSeq_frame hr
    exact hres (hq b q hb)

/-- Every command but `INIT` leaves `ctl.valid` as it is (R133). -/
theorem exec_ctlValid {i : Instr} {s t : State} (hi : i ≠ .init) (h : exec i s = .next t) : t.ctlValid = s.ctlValid := by
  rcases exec_next h with ⟨x, -, rfl⟩ | ⟨c, hc, rfl⟩ | ⟨b, q, hb, hr⟩
  · simp
  · rw [hc.frame]
    rfl
  · obtain ⟨-, -, -, hctl⟩ := runSeq_frame hr
    rcases hb.base with ⟨-, hop, rfl⟩ | ⟨rfl, -⟩
    · exact hctl hop
    · exact absurd rfl hi

/-- A command that starts no sequence ends in the step it is accepted in, with no access and no TransportError. -/
theorem exec_settled {i : Instr} {s t : State} (hi : ∀ b q, ¬ Starts i s b q) (h : exec i s = .next t) :
    t.errBus = s.errBus ∧ t.far = s.far ∧ t.events = s.events ∧ t.seq = Sequencer.idle ∧ t.busy = false := by
  rcases exec_next h with ⟨x, ⟨-, -, h5, -⟩, rfl⟩ | ⟨c, hc, rfl⟩ | ⟨b, q, hb, -⟩
  · exact ⟨(raise_errors_class s x).2.resolve_left h5, by simp⟩
  · rw [hc.frame]
    exact ⟨rfl, rfl, rfl, rfl, rfl⟩
  · exact absurd hb (hi b q)

/-! ### The frames -/

/-- The frame that both constructors share. -/
theorem constructor_frame {i : Instr} {s t : State} {slot : Byte}
    (hi : (∃ index, i = .mkled slot index) ∨ ∃ index mn mx, i = .mkservo slot index mn mx) (h : exec i s = .next t) :
    s.SameSurroundings t ∧ (∀ k : Fin 16, k.val ≠ slot.toNat → t.ch[k] = s.ch[k]) ∧ s.SameResults t ∧
      t.errBus = s.errBus ∧ t.ctlValid = s.ctlValid ∧ t.far = s.far ∧ t.events = s.events ∧ t.seq = Sequencer.idle ∧
      t.busy = false := by
  have hstarts : ∀ b q, ¬ Starts i s b q := by rcases hi with ⟨_, rfl⟩ | ⟨_, _, _, rfl⟩ <;> exact fun _ _ => id
  have hcomp : ∀ c, Computes i s c → s.SameResults c := by
    rcases hi with ⟨_, rfl⟩ | ⟨_, _, _, rfl⟩ <;> rintro c ⟨n, d, -, -, -, rfl⟩ <;> exact ⟨rfl, rfl, rfl, rfl⟩
  have hslots (k : Fin 16) (hk : k.val ≠ slot.toNat) : t.ch[k] = s.ch[k] := by
    by_contra hne
    obtain ⟨slot', index', hn, -, ⟨e, -⟩ | ⟨_, _, e, -⟩⟩ := exec_slot_changed h hne <;>
      rcases hi with ⟨_, rfl⟩ | ⟨_, _, _, rfl⟩ <;> cases e <;> exact hk hn.symm
  have hinit : i ≠ .init := by rcases hi with ⟨_, rfl⟩ | ⟨_, _, _, rfl⟩ <;> simp
  obtain ⟨hbus, hfar, hev, hseq, hbusy⟩ := exec_settled hstarts h
  exact ⟨exec_surroundings h, hslots, exec_results hcomp (fun b q hb => absurd hb (hstarts b q)) h, hbus,
    exec_ctlValid hinit h, hfar, hev, hseq, hbusy⟩

/-- Settles O56: both constructors write one slot, or raise. -/
theorem constructorFrame : Obligations.ConstructorFrame := by
  intro s t slot index mn mx h
  have hframe := h.elim (constructor_frame (.inl ⟨index, rfl⟩)) (constructor_frame (.inr ⟨index, mn, mx, rfl⟩))
  obtain ⟨hsur, hslots, ⟨h0, h1, h2, h3⟩, hbus, hctl, hfar, hev, hseq, hbusy⟩ := hframe
  exact ⟨hsur, hslots, h0, h1, h2, h3, hbus, hctl, hfar, hev, hseq, hbusy, .of_creg (by rw [hfar])⟩

/-- A command with one result writes `res[0]` alone (R26). -/
theorem oneResult_frame {i : Instr} {s t : State} (hc : ∀ c, Computes i s c → ∃ v, c = s.setRes0 v)
    (hi : ∀ b q, ¬ Starts i s b q) (h : exec i s = .next t) :
    t.ch = s.ch ∧ t.res1 = s.res1 ∧ t.res2 = s.res2 ∧ t.res3 = s.res3 ∧ t.ctlValid = s.ctlValid := by
  rcases exec_next h with ⟨x, -, rfl⟩ | ⟨c, hcomp, rfl⟩ | ⟨b, q, hb, -⟩
  · simp
  · obtain ⟨v, rfl⟩ := hc c hcomp
    simp
  · exact absurd hb (hi b q)

/-- Settles O57: each of the five commands computes one result, or raises. -/
theorem oneResultFrame : Obligations.OneResultFrame := by
  intro i s t slot base v hi h
  have hstarts : ∀ b q, ¬ Starts i s b q := by
    simp only [List.mem_cons, List.not_mem_nil, or_false] at hi
    rcases hi with rfl | rfl | rfl | rfl | rfl <;> exact fun _ _ => id
  have hcomp : ∀ c, Computes i s c → ∃ v, c = s.setRes0 v := by
    simp only [List.mem_cons, List.not_mem_nil, or_false] at hi
    rcases hi with rfl | rfl | rfl | rfl | rfl <;> exact fun _ => id
  obtain ⟨hbus, hfar, hev, hseq, hbusy⟩ := exec_settled hstarts h
  obtain ⟨hch, h1, h2, h3, hctl⟩ := oneResult_frame hcomp hstarts h
  refine ⟨exec_surroundings h, hch, h1, h2, h3, hbus, hctl, hfar, hev, hseq, hbusy, .of_creg (by rw [hfar]), fun hi' => ?_⟩
  refine exec_range ?_ h
  simp only [List.mem_cons, List.not_mem_nil, or_false] at hi'
  rcases hi' with rfl | rfl | rfl <;> simp [mayReport]

/-- Settles O58: `ADDR` starts no sequence, and no row of `RDCH` writes. -/
theorem fourResultFrame : Obligations.FourResultFrame := by
  intro s t slot h
  have haddr : ∀ b q, ¬ Starts (.addr slot) s b q := fun _ _ => id
  have hrdch : ∀ b q, Starts (.rdch slot) s b q → q.op.WritesOnly q.index [] := by
    rintro b q ⟨c, -, -, rfl⟩
    exact writesOnly_rdch c.index
  have hframe : s.SameSurroundings t ∧ t.ch = s.ch ∧ s.SameRange t ∧ t.ctlValid = s.ctlValid ∧ s.SameStoreBut t [] := by
    rcases h with h | h
    · exact ⟨exec_surroundings h, exec_ch (by simp) (by simp) h, exec_range (by simp [mayReport]) h,
        exec_ctlValid (by simp) h, exec_store (fun b q hb => absurd hb (haddr b q)) h⟩
    · exact ⟨exec_surroundings h, exec_ch (by simp) (by simp) h, exec_range (by simp [mayReport]) h,
        exec_ctlValid (by simp) h, exec_store hrdch h⟩
  obtain ⟨hsur, hch, ⟨he, hx, hv⟩, hctl, hst⟩ := hframe
  refine ⟨hsur, hch, he, hx, hv, hctl, hst, fun h' => ?_⟩
  obtain ⟨hbus, hfar, hev, -⟩ := exec_settled haddr h'
  exact ⟨hbus, hfar, hev⟩

/-- The frame that all commands share which only write to the bus, and `INIT`. -/
theorem busWrite_frame {i : Instr} {s t : State} (hc : ∀ c, ¬ Computes i s c)
    (hq : ∀ b q, Starts i s b q → q.op ≠ .rdch) (hr : ∀ c ∈ mayReport i, c.toNat ∉ [1, 2, 3, 4])
    (h : exec i s = .next t) : s.SameSurroundings t ∧ t.ch = s.ch ∧ s.SameResults t ∧ s.SameRange t := by
  refine ⟨exec_surroundings h, exec_ch ?_ ?_ h, exec_results (fun c hcomp => absurd hcomp (hc c)) hq h, exec_range hr h⟩
  · rintro slot index rfl
    exact absurd (by decide) (hr 1 (by simp [mayReport]))
  · rintro slot index mn mx rfl
    exact absurd (by decide) (hr 1 (by simp [mayReport]))

/-- A slot holds one descriptor. -/
theorem State.HasSlot.unique {s : State} {slot : Byte} {c d : Slot} (hc : s.HasSlot slot c) (hd : s.HasSlot slot d) :
    c = d := by
  obtain ⟨-, hc, -⟩ := hc
  obtain ⟨-, hd, -⟩ := hd
  exact Option.some.inj (hc.symm.trans hd)

/-- The frame that `WRCH` and `SETCH` share: both start the channel write for the slot they name, or are refused. -/
theorem channelWrite_frame {i : Instr} {s t : State} {slot : Byte} (hc : ∀ c, ¬ Computes i s c)
    (hq : ∀ b q, Starts i s b q → ∃ c, s.HasSlot slot c ∧ q.op = .wrch ∧ q.index = c.index)
    (hr : ∀ c ∈ mayReport i, c.toNat ∉ [1, 2, 3, 4]) (hinit : i ≠ .init) (h : exec i s = .next t) :
    s.SameSurroundings t ∧ t.ch = s.ch ∧ s.SameResults t ∧ s.SameRange t ∧ t.ctlValid = s.ctlValid ∧
      (∀ c, s.HasSlot slot c → s.SameStoreBut t
        [busAddr (quad c.index).onLow, busAddr (quad c.index).onHigh, busAddr (quad c.index).offLow,
          busAddr (quad c.index).offHigh]) ∧
      (s.NoSlot slot → s.SameStoreBut t []) := by
  have hop : ∀ b q, Starts i s b q → q.op ≠ .rdch := fun b q hb => by
    obtain ⟨c, -, e, -⟩ := hq b q hb
    simp [e]
  obtain ⟨hsur, hch, hres, hrange⟩ := busWrite_frame hc hop hr h
  refine ⟨hsur, hch, hres, hrange, exec_ctlValid hinit h, fun c hslot => exec_store (fun b q hb => ?_) h,
    fun hno => exec_store (fun b q hb => ?_) h⟩
  · obtain ⟨d, hd, e, ei⟩ := hq b q hb
    rw [e, ei, hd.unique hslot]
    exact writesOnly_wrch c.index
  · obtain ⟨d, hd, -⟩ := hq b q hb
    exact absurd hd (noSlot_iff.1 hno d)

/-- Settles O59: both commands write the four bytes of the channel of their slot, or none. -/
theorem channelWriteFrame : Obligations.ChannelWriteFrame := by
  intro s t slot d0 d1 d2 d3 on off h
  have hwrch : ∀ b q, Starts (.wrch slot d0 d1 d2 d3) s b q →
      ∃ c, s.HasSlot slot c ∧ q.op = .wrch ∧ q.index = c.index := by
    rintro b q ⟨c, hc, -, rfl⟩
    exact ⟨c, hc, rfl, rfl⟩
  have hsetch : ∀ b q, Starts (.setch slot on off) s b q →
      ∃ c, s.HasSlot slot c ∧ q.op = .wrch ∧ q.index = c.index := by
    rintro b q ⟨-, c, hc, -, rfl⟩
    exact ⟨c, hc, rfl, rfl⟩
  have hframe := h.elim (channelWrite_frame (fun _ => id) hwrch (by simp [mayReport]) (by simp))
    (channelWrite_frame (fun _ => id) hsetch (by simp [mayReport]) (by simp))
  obtain ⟨hsur, hch, ⟨h0, h1, h2, h3⟩, ⟨he, hx, hv⟩, hctl, hslot, hno⟩ := hframe
  exact ⟨hsur, hch, h0, h1, h2, h3, he, hx, hv, hctl, hslot, hno⟩

/-- Settles O60: each of the three commands runs its own sequence, or is refused. -/
theorem controllerFrame : Obligations.ControllerFrame := by
  intro i s t p on off hi h
  have hframe : s.SameSurroundings t ∧ t.ch = s.ch ∧ s.SameResults t ∧ s.SameRange t := by
    simp only [List.mem_cons, List.not_mem_nil, or_false] at hi
    rcases hi with rfl | rfl | rfl
    · exact busWrite_frame (fun _ => id) (by rintro b q ⟨-, rfl⟩; simp [Sequencer.start]) (by simp [mayReport]) h
    · exact busWrite_frame (fun _ => id) (by rintro b q ⟨-, -, rfl⟩; simp [Sequencer.start]) (by simp [mayReport]) h
    · exact busWrite_frame (fun _ => id) (by rintro b q ⟨-, -, rfl⟩; simp [Sequencer.start]) (by simp [mayReport]) h
  obtain ⟨hsur, hch, ⟨h0, h1, h2, h3⟩, ⟨he, hx, hv⟩⟩ := hframe
  refine ⟨hsur, hch, h0, h1, h2, h3, he, hx, hv, fun hne => exec_ctlValid hne h, ?_, ?_, ?_⟩
  · rintro rfl
    exact exec_store (by rintro b q ⟨-, rfl⟩; exact writesOnly_init 0) h
  · rintro rfl
    exact exec_store (by rintro b q ⟨-, -, rfl⟩; exact writesOnly_setrate 0) h
  · rintro rfl
    exact exec_store (by rintro b q ⟨-, -, rfl⟩; exact writesOnly_setall 0) h

end Sys2Proof.Machine
end

section
/-! A prompt far side ends a command in one move (R35, log entry 11). -/

namespace Sys2Proof.Machine

/-- A step either leaves the far side prompt and goes on, or ends the command. -/
inductive Progress.Prompt : Progress → Prop
  | running {t : State} (h : t.far.Prompt) : Prompt (.running t)
  | stopped {t : State} (h : t.busy = false) : Prompt (.stopped t)
  | noRow : Prompt .noRow

/-- What follows a row's own action keeps the far side prompt, or ends the command. -/
theorem advance_prompt {u : State} (h : u.far.Prompt) : u.advance.Prompt := by
  rcases advance_cases u with ⟨-, e⟩ | ⟨-, e⟩ <;> rw [e]
  · exact .stopped rfl
  · exact .running h

/-- With a prompt far side no row waits. -/
theorem seqStep_prompt {s : State} (h : s.far.Prompt) : (seqStep s).Prompt := by
  unfold seqStep
  split
  next a _ =>
    have ⟨⟨r, hr⟩, hp⟩ := FarSide.read_prompt h a
    rcases he : s.far.read a with ⟨o, f⟩
    rw [he] at hr hp
    subst hr
    cases r with
    | ok b => exact advance_prompt hp
    | error e => exact .stopped rfl
  next a v _ =>
    have ⟨⟨r, hr⟩, hp⟩ := FarSide.write_prompt h a v
    rcases he : s.far.write a v with ⟨o, f⟩
    rw [he] at hr hp
    subst hr
    cases r with
    | ok u => exact advance_prompt hp
    | error e => exact .stopped rfl
  next => rw [FarSide.waitGoesOn_prompt h]; exact advance_prompt h
  next => exact advance_prompt h
  next => exact .noRow

/-- In a row, a step that goes on uses one unit of fuel and leaves one row less. -/
theorem fuelFor_step {s t : State} {n : Nat} (hrow : s.seq.action.isSome = true) (h : seqStep s = .running t)
    (hn : s.seq.FuelFor (n + 1)) : t.seq.FuelFor n := by
  obtain ⟨-, hop, hstep, -⟩ := seqStep_running h
  obtain ⟨-, -, hle⟩ := (action_isSome_iff _).1 hrow
  have hlast := s.seq.op.last_le
  have hone : (1 : BitVec 4).toNat = 1 := rfl
  simp only [Sequencer.FuelFor, hop, hstep, BitVec.toNat_add, hone] at hn ⊢
  omega

/-- A run with enough fuel ends its command, if the far side is prompt. -/
theorem runSeq_prompt {n : Nat} {s t : State} (hrow : s.seq.action.isSome = true) (hn : s.seq.FuelFor n)
    (hp : s.far.Prompt) (h : runSeq n s = .next t) : t.busy = false := by
  induction n generalizing s with
  | zero =>
    obtain ⟨m, hm⟩ := fuelFor_pos hrow hn
    cases hm
  | succ n ih =>
    have hstep := seqStep_prompt hp
    cases e : seqStep s with
    | running u =>
      rw [e] at hstep
      rw [runSeq_running n e] at h
      cases hstep with
      | running hu => exact ih (row_running hrow e) (fuelFor_step hrow e hn) hu h
    | stopped u =>
      rw [e] at hstep
      rw [runSeq_stopped n e] at h
      cases h
      cases hstep with
      | stopped hu => exact hu
    | noRow => exact absurd e (seqStep_ne_noRow hrow)

/-- A command ends in the move that accepts it, if the far side is prompt. -/
theorem exec_prompt {i : Instr} {s t : State} (hp : s.far.Prompt) (h : exec i s = .next t) : t.busy = false := by
  rcases exec_next h with ⟨x, -, rfl⟩ | ⟨c, -, rfl⟩ | ⟨b, q, hb, hr⟩
  · simp
  · rfl
  · have hrow := start_row hb
    rw [hb.frame] at hr
    exact runSeq_prompt (s := { s with ctlValid := b.ctlValid, seq := q, busy := true }) hrow (fuelFor_seqFuel hrow) hp hr

/-- Settles O26: one move has fuel for every row of a table, and a prompt far side lets none of them wait. -/
theorem promptFarSideEndsCommand : Obligations.PromptFarSideEndsCommand := by
  refine ⟨fun i s hp => ?_, fun s ⟨_, ⟨hrow, _⟩, _⟩ hb hh hp => ?_⟩
  · obtain ⟨t, h⟩ := exec_total i s
    exact ⟨t, h, exec_prompt hp h⟩
  · obtain ⟨t, h⟩ := runSeq_next seqFuel (hrow hb)
    exact ⟨t, (step_busy hb hh).trans h, runSeq_prompt (hrow hb) (fuelFor_seqFuel (hrow hb)) hp h⟩

end Sys2Proof.Machine
end

section
/-! No register feeds back (R25, R34, R37): two blocks that agree on the slots, `ctl.valid` and the far side go through a
command in step, whatever their result, status and error registers hold. -/

namespace Sys2Proof.Machine

/-! ### Writing the same to both blocks -/

/-- Two blocks, from `s` and `s'` on: they still agree on what a command reads, have had the same accesses, and each register
is as it was in both or equal in both. -/
structure SameWrites (s s' t t' : State) : Prop where
  inputs : t.SameInputs t'
  code : SameOrKept State.code s s' t t'
  res0 : SameOrKept State.res0 s s' t t'
  res1 : SameOrKept State.res1 s s' t t'
  res2 : SameOrKept State.res2 s s' t t'
  res3 : SameOrKept State.res3 s s' t t'
  errMin : SameOrKept State.errMin s s' t t'
  errMax : SameOrKept State.errMax s s' t t'
  errVal : SameOrKept State.errVal s s' t t'
  errBus : SameOrKept State.errBus s s' t t'
  events : ∃ evs, t.events = s.events ++ evs ∧ t'.events = s'.events ++ evs

namespace SameWrites

variable {s s' t t' : State}

theorem refl (h : s.SameInputs s') : SameWrites s s' s s' :=
  have kept {α : Type} {f : State → α} : SameOrKept f s s' s s' := .inl ⟨rfl, rfl⟩
  ⟨h, kept, kept, kept, kept, kept, kept, kept, kept, kept, [], by simp, by simp⟩

theorem setSlot (h : SameWrites s s' t t') (n : Fin Config.nslot) (c : Slot) :
    SameWrites s s' (t.setSlot n c) (t'.setSlot n c) :=
  have ⟨hch, hctl, hfar⟩ := h.inputs
  { h with inputs := ⟨by simp [hch], hctl, hfar⟩ }

theorem setRes0 (h : SameWrites s s' t t') (v : Half) : SameWrites s s' (t.setRes0 v) (t'.setRes0 v) :=
  { h with res0 := .inr rfl }

theorem setRes (h : SameWrites s s' t t') (v0 v1 v2 v3 : Half) :
    SameWrites s s' (t.setRes v0 v1 v2 v3) (t'.setRes v0 v1 v2 v3) :=
  { h with res0 := .inr rfl, res1 := .inr rfl, res2 := .inr rfl, res3 := .inr rfl }

theorem setCode (h : SameWrites s s' t t') (c : Byte) : SameWrites s s' (t.setCode c) (t'.setCode c) :=
  { h with code := .inr rfl }

theorem setCtl (h : SameWrites s s' t t') (b : Bool) : SameWrites s s' (t.setCtl b) (t'.setCtl b) :=
  have ⟨hch, _, hfar⟩ := h.inputs
  { h with inputs := ⟨hch, rfl, hfar⟩ }

theorem setFar (h : SameWrites s s' t t') (f : FarSide) : SameWrites s s' (t.setFar f) (t'.setFar f) :=
  have ⟨hch, hctl, _⟩ := h.inputs
  { h with inputs := ⟨hch, hctl, rfl⟩ }

theorem log (h : SameWrites s s' t t') (ev : Event) : SameWrites s s' (t.log ev) (t'.log ev) :=
  have ⟨evs, e, e'⟩ := h.events
  { h with events := ⟨evs ++ [ev], by simp [e], by simp [e']⟩ }

theorem setSeq (h : SameWrites s s' t t') (q q' : Sequencer) : SameWrites s s' (t.setSeq q) (t'.setSeq q') := { h with }

theorem setBusy (h : SameWrites s s' t t') (b b' : Bool) : SameWrites s s' (t.setBusy b) (t'.setBusy b') := { h with }

theorem setErrors (h : SameWrites s s' t t') (x : Exn) : SameWrites s s' (t.setErrors x) (t'.setErrors x) := by
  have range (mn mx v : Int) : SameWrites s s' (t.setRange mn mx v) (t'.setRange mn mx v) :=
    { h with errMin := .inr rfl, errMax := .inr rfl, errVal := .inr rfl }
  cases x with
  | rangeIndex mn mx v => exact range mn mx v
  | rangeAngle mn mx v => exact range mn mx v
  | rangeTicks mn mx v => exact range mn mx v
  | rangeSettings mn mx v => exact range mn mx v
  | transport e => exact { h with errBus := .inr rfl }
  | arith => exact h
  | noController => exact h
  | badSlot => exact h
  | badKind => exact h
  | illegalCmd => exact h

/-- What the last row of a table does beside its action depends on the sequencer alone. -/
theorem commit (h : SameWrites s s' t t') (hseq : t.seq = t'.seq) : SameWrites s s' t.commit t'.commit := by
  unfold State.commit
  rw [← hseq]
  split
  · exact h.setRes _ _ _ _
  · exact h.setCtl true
  · exact h

/-- Two moves have the same effect if they have written the same, and stand in the same row or have ended alike. -/
theorem effect (h : SameWrites s s' t t') (hseq : t.seq = t'.seq) (hbusy : t.busy = t'.busy)
    (hcode : t.busy = false → t.code = t'.code) : SameEffect s s' t t' :=
  ⟨h.inputs, hseq, hbusy, hcode, h.code, h.res0, h.res1, h.res2, h.res3, h.errMin, h.errMax, h.errVal, h.errBus, h.events⟩

theorem complete (h : SameWrites s s' t t') : SameEffect s s' t.complete t'.complete :=
  (((h.setCode codeOk).setSeq .idle .idle).setBusy false false).effect rfl rfl fun _ => rfl

theorem raise (h : SameWrites s s' t t') (x : Exn) : SameEffect s s' (t.raise x) (t'.raise x) :=
  ((((h.setErrors x).setCode x.code).setSeq .idle .idle).setBusy false false).effect rfl rfl fun _ => rfl

end SameWrites

/-! ### Two blocks in step -/

/-- Two blocks under way in the same row, which have written the same since `s` and `s'`. -/
structure InStep (s s' t t' : State) : Prop where
  writes : SameWrites s s' t t'
  seq : t.seq = t'.seq
  busy : t.busy = true
  busy' : t'.busy = true

namespace InStep

variable {s s' t t' : State}

theorem setFar (h : InStep s s' t t') (f : FarSide) : InStep s s' (t.setFar f) (t'.setFar f) :=
  ⟨h.writes.setFar f, h.seq, h.busy, h.busy'⟩

theorem log (h : InStep s s' t t') (ev : Event) : InStep s s' (t.log ev) (t'.log ev) :=
  ⟨h.writes.log ev, h.seq, h.busy, h.busy'⟩

theorem setSeq (h : InStep s s' t t') (q : Sequencer) : InStep s s' (t.setSeq q) (t'.setSeq q) :=
  ⟨h.writes.setSeq q q, rfl, h.busy, h.busy'⟩

/-- Where both blocks wait, their moves have had the same effect. -/
theorem effect (h : InStep s s' t t') : SameEffect s s' t t' :=
  h.writes.effect h.seq (h.busy.trans h.busy'.symm) fun hidle => absurd (h.busy.symm.trans hidle) (by decide)

end InStep

/-- Two sequencer steps go on in step, stop with the same effect, or find no row. -/
inductive StepsAlike (s s' : State) : Progress → Progress → Prop
  | running {t t' : State} (h : InStep s s' t t') : StepsAlike s s' (.running t) (.running t')
  | stopped {t t' : State} (h : SameEffect s s' t t') : StepsAlike s s' (.stopped t) (.stopped t')
  | noRow : StepsAlike s s' .noRow .noRow

section alike

variable {s s' : State}

/-- Blocks in step complete a row alike. -/
theorem InStep.advance_alike {t t' : State} (h : InStep s s' t t') : StepsAlike s s' t.advance t'.advance := by
  unfold State.advance
  rw [← h.seq]
  split
  · exact .stopped (h.writes.commit h.seq).complete
  · exact .running (h.setSeq _)

/-- Blocks in step perform a row alike: the row is the sequencer's, the answer the far side's. -/
theorem InStep.seqStep_alike {t t' : State} (h : InStep s s' t t') : StepsAlike s s' (seqStep t) (seqStep t') := by
  obtain ⟨-, -, hfar⟩ := h.writes.inputs
  unfold seqStep
  rw [← h.seq, ← hfar]
  split
  next a _ =>
    rcases t.far.read a with ⟨_ | ⟨e | b⟩, f⟩ <;> simp only [State.gotRead]
    · exact .stopped (h.setFar f).effect
    · exact .stopped (((h.setFar f).log _).writes.raise _)
    · rw [← h.seq]
      exact (((h.setFar f).log _).setSeq _).advance_alike
  next a v _ =>
    rcases t.far.write a v with ⟨_ | ⟨e | u⟩, f⟩ <;> simp only [State.gotWrite]
    · exact .stopped (h.setFar f).effect
    · exact .stopped (((h.setFar f).log _).writes.raise _)
    · exact ((h.setFar f).log _).advance_alike
  next =>
    rcases t.far.waitGoesOn with ⟨_ | _, f⟩ <;> simp only [State.gotWait]
    · exact ((h.setFar f).log _).advance_alike
    · exact .stopped (h.setFar f).effect
  next => exact h.advance_alike
  next => exact .noRow

/-- Blocks in step run alike. -/
theorem InStep.runSeq_alike {n : Nat} {t t' u u' : State} (h : InStep s s' t t') (hu : runSeq n t = .next u)
    (hu' : runSeq n t' = .next u') : SameEffect s s' u u' := by
  induction n generalizing t t' with
  | zero =>
    cases hu
    cases hu'
    exact h.effect
  | succ n ih =>
    have halike := h.seqStep_alike
    simp only [runSeq] at hu hu'
    generalize seqStep t = p at hu halike
    generalize seqStep t' = p' at hu' halike
    cases halike with
    | running hr => exact ih hr hu hu'
    | stopped he => cases hu; cases hu'; exact he
    | noRow => cases hu

/-! ### A command is accepted alike -/

/-- Two computations of a command raise the same exception, or have written the same. -/
inductive AnswersAlike (s s' : State) : Except Exn State → Except Exn State → Prop
  | ok {t t' : State} (h : SameWrites s s' t t') : AnswersAlike s s' (.ok t) (.ok t')
  | error (x : Exn) : AnswersAlike s s' (.error x) (.error x)

/-- A check that answers both blocks the same carries over, if what follows it does. -/
theorem AnswersAlike.bind {α : Type} {x : Except Exn α} {f g : α → Except Exn State}
    (h : ∀ c, AnswersAlike s s' (f c) (g c)) : AnswersAlike s s' (x >>= f) (x >>= g) := by
  cases x with
  | ok c => exact h c
  | error e => exact .error e

/-- A command that only computes settles alike. -/
theorem AnswersAlike.settle {r r' : Except Exn State} (hs : s.SameInputs s') (h : AnswersAlike s s' r r') :
    SameEffect s s' (s.settle r) (s'.settle r') := by
  cases h with
  | ok ht => exact ht.complete
  | error x => exact (SameWrites.refl hs).raise x

/-- A command's sequence begins alike. -/
theorem SameWrites.begin {b b' t t' : State} {r : Except Exn Sequencer} (h : SameWrites s s' b b')
    (ht : b.begin r = .next t) (ht' : b'.begin r = .next t') : SameEffect s s' t t' := by
  cases r with
  | ok q => exact InStep.runSeq_alike ⟨(h.setSeq q q).setBusy true true, rfl, rfl, rfl⟩ ht ht'
  | error x =>
    cases ht
    cases ht'
    exact h.raise x

theorem useSlot_congr (h : s.SameInputs s') (slot : Byte) : useSlot s' slot = useSlot s slot := by
  simp only [useSlot, h.1]

theorem servoSlot_congr (h : s.SameInputs s') (slot : Byte) : servoSlot s' slot = servoSlot s slot := by
  simp only [servoSlot, useSlot_congr h]

theorem requireCtl_congr (h : s.SameInputs s') : requireCtl s' = requireCtl s := by
  simp only [requireCtl, h.2.1]

/-- A command settles alike in both blocks, or begins alike. -/
theorem exec_alike (i : Instr) (h : s.SameInputs s') :
    (∃ r r', exec i s = .next (s.settle r) ∧ exec i s' = .next (s'.settle r') ∧ AnswersAlike s s' r r') ∨
    (∃ b b' r, exec i s = State.begin b r ∧ exec i s' = State.begin b' r ∧ SameWrites s s' b b') := by
  have same := SameWrites.refl h
  cases i with
  | mkled slot index => exact .inl ⟨_, _, rfl, rfl, .bind fun n => .bind fun c => .ok (same.setSlot n _)⟩
  | chidx slot =>
    refine .inl ⟨_, _, rfl, rfl, ?_⟩
    rw [useSlot_congr h]
    exact .bind fun c => .ok (same.setRes0 _)
  | regoff slot base =>
    refine .inl ⟨_, _, rfl, rfl, ?_⟩
    rw [useSlot_congr h]
    exact .bind fun c => .ok (same.setRes0 _)
  | addr slot =>
    refine .inl ⟨_, _, rfl, rfl, ?_⟩
    rw [useSlot_congr h]
    exact .bind fun c => .ok (same.setRes _ _ _ _)
  | rdch slot => exact .inr ⟨s, s', _, rfl, by rw [← useSlot_congr h]; rfl, same⟩
  | wrch slot d0 d1 d2 d3 => exact .inr ⟨s, s', _, rfl, by rw [← useSlot_congr h]; rfl, same⟩
  | init => exact .inr ⟨s.setCtl false, s'.setCtl false, .ok (.start .init 0 0 0 0 0), rfl, rfl, same.setCtl false⟩
  | setrate p => exact .inr ⟨s, s', _, rfl, by rw [← requireCtl_congr h]; rfl, same⟩
  | calcps rate =>
    refine .inl ⟨_, _, rfl, rfl, ?_⟩
    split
    · exact .error _
    · exact .ok (same.setRes0 _)
  | setch slot on off =>
    exact .inr ⟨s, s', _, rfl, by rw [← requireCtl_congr h, ← useSlot_congr h]; rfl, same⟩
  | setall on off => exact .inr ⟨s, s', _, rfl, by rw [← requireCtl_congr h]; rfl, same⟩
  | mkservo slot index mn mx =>
    exact .inl ⟨_, _, rfl, rfl, .bind fun n => .bind fun c => .bind fun _ => .ok (same.setSlot n _)⟩
  | d2p slot angle =>
    refine .inl ⟨_, _, rfl, rfl, ?_⟩
    rw [servoSlot_congr h]
    refine .bind fun c => ?_
    split
    · exact .error _
    · exact .ok (same.setRes0 _)
  | p2d slot ticks =>
    refine .inl ⟨_, _, rfl, rfl, ?_⟩
    rw [servoSlot_congr h]
    refine .bind fun c => ?_
    by_cases hr : ticks.toNat < c.minTick.toNat ∨ ticks.toNat > c.maxTick.toNat
    · simp only [hr, if_true]
      exact .error _
    · simp only [hr, if_false]
      split
      · exact .error _
      · exact .ok (same.setRes0 _)

end alike

/-- Settles O25: both blocks accept the command alike and then go through it in step. -/
theorem registersNeverFeedBack : Obligations.RegistersNeverFeedBack := by
  refine ⟨fun i s s' t t' hs ht ht' => ?_, fun s s' t t' hs hb hb' hq ht ht' => ?_⟩
  · rcases exec_alike i hs with ⟨r, r', e, e', hr⟩ | ⟨b, b', r, e, e', hb⟩ <;> rw [e] at ht <;> rw [e'] at ht'
    · cases ht
      cases ht'
      exact hr.settle hs
    · exact hb.begin ht ht'
  · simp only [proceed, hb, hb', if_true] at ht ht'
    exact InStep.runSeq_alike ⟨.refl hs, hq, hb, hb'⟩ ht ht'

end Sys2Proof.Machine
end

section
/-! The register map (R56, R70), and an access that nobody answers (R72). -/

namespace Sys2Proof.Machine

/-! ### Every access is at an address of R70 -/

/-- The block has added to the record only accesses at addresses of R70. -/
def State.AddsAllowed (s t : State) : Prop := ∃ evs, t.events = s.events ++ evs ∧ ∀ ev ∈ evs, ev.allowed = true

theorem State.AddsAllowed.of_same {s t : State} (h : t.events = s.events) : s.AddsAllowed t := ⟨[], by simp [h], by simp⟩

/-- A run adds only accesses of its table's rows, which are all allowed, the one that fails among them. -/
theorem runSeq_addsAllowed {n : Nat} {s t : State} (h : runSeq n s = .next t) : s.AddsAllowed t := by
  obtain ⟨u, ⟨-, -, evs, hevs, hok⟩, hend⟩ := runSeq_end h
  have hall : ∀ ev ∈ evs, ev.allowed = true := fun ev hm => (hok ev hm).2
  rcases hend with rfl | ⟨bad, e, -, hbad, rfl⟩ | rfl
  · exact ⟨evs, hevs, hall⟩
  · refine ⟨evs ++ [bad], by simp [hevs], fun ev hm => ?_⟩
    rcases List.mem_append.1 hm with hm | hm
    · exact hall ev hm
    · exact List.mem_singleton.1 hm ▸ hbad
  · exact ⟨evs, by simp [hevs], hall⟩

theorem proceed_addsAllowed {s t : State} (h : proceed s = .next t) : s.AddsAllowed t := by
  unfold proceed at h
  split at h
  · exact runSeq_addsAllowed h
  · cases h; exact .of_same rfl

/-- A command accesses the bus only by its sequence. -/
theorem exec_addsAllowed {i : Instr} {s t : State} (h : exec i s = .next t) : s.AddsAllowed t := by
  rcases exec_next h with ⟨x, -, rfl⟩ | ⟨c, hc, rfl⟩ | ⟨b, q, hb, hr⟩
  · exact .of_same (by simp)
  · rw [hc.frame]; exact .of_same rfl
  · rw [hb.frame] at hr
    exact (runSeq_addsAllowed hr :)

theorem present_addsAllowed {w : CmdWord} {s t : State} (h : present w s = .next t) : s.AddsAllowed t := by
  unfold present at h
  split at h
  · cases h; exact .of_same rfl
  · split at h
    · exact exec_addsAllowed h
    · cases h; exact .of_same (by simp)

/-- Settles O18: the block accesses the bus only by a command's sequence; a host read and a reset access nothing. -/
theorem accessesStayInRegisterMap : Obligations.AccessesStayInRegisterMap := by
  intro s t h
  change s.AddsAllowed t
  unfold step at h
  split at h
  · exact proceed_addsAllowed h
  · exact (proceed_addsAllowed h :)
  · exact (present_addsAllowed h :)
  · cases h
    unfold hostRead
    split <;> exact .of_same rfl
  · cases h; exact .of_same rfl

/-! ### An access that nobody answers -/

/-- A silent far side answers nothing and stays as it is. -/
theorem FarSide.next_silent {f : FarSide} (hs : f.script = []) (hr : f.rest = .silent) : f.next = (none, f) := by
  simp only [FarSide.next, hs, hr]

/-- Settles O27: the access is not answered, so the move stops in its row with the far side as it was. -/
theorem unansweredAccessHangs : Obligations.UnansweredAccessHangs := by
  intro s hb hh hs hr hrow
  have hnone := FarSide.next_silent hs hr
  have hstep : seqStep s = .stopped s := by
    rcases hrow with ⟨a, ha⟩ | ⟨a, v, ha⟩
    · simp only [seqStep, ha, FarSide.read, hnone, State.gotRead]
      rfl
    · simp only [seqStep, ha, FarSide.write, hnone, State.gotWrite]
      rfl
  rw [step_busy hb hh]
  exact runSeq_stopped 7 hstep

/-! ### The registers of two channels -/

/-- The address of a channel's register is not cut to eight bits (R56), so it tells the register and the channel. -/
theorem channelAddr_eq_iff {a b : Nat} (ha : a ≤ 9) (hb : b ≤ 9) (i j : BitVec 4) :
    BitVec.ofNat 8 (a + 4 * i.toNat) = BitVec.ofNat 8 (b + 4 * j.toNat) ↔ a + 4 * i.toNat = b + 4 * j.toNat := by
  have hi := i.isLt
  have hj := j.isLt
  rw [← BitVec.toNat_inj, BitVec.toNat_ofNat, BitVec.toNat_ofNat, Nat.mod_eq_of_lt (by omega), Nat.mod_eq_of_lt (by omega)]

/-- Settles O37: a channel write changes no byte but the four of its own channel, and the other channel's are not among
them. -/
theorem channelsShareNoRegister : Obligations.ChannelsShareNoRegister := by
  intro s t slot slot' c c' d0 d1 d2 d3 hc hc' hne h k hk
  obtain ⟨-, -, -, -, -, -, -, -, -, -, hstore, -⟩ := channelWriteFrame s t slot d0 d1 d2 d3 0 0 (.inl h)
  have hindex : c'.index.toNat ≠ c.index.toNat := fun e => hne (BitVec.eq_of_toNat_eq e.symm)
  have other (m : Nat) (hm6 : 6 ≤ m) (hm9 : m ≤ 9) :
      BitVec.ofNat 8 (0x06 + k + 4 * c'.index.toNat) ≠ busAddr (regoff m c.index) := fun e => by
    have := (channelAddr_eq_iff (by omega) hm9 _ _).1 e
    omega
  refine hstore c hc _ fun hmem => ?_
  simp only [quad, List.mem_cons, List.not_mem_nil, or_false] at hmem
  rcases hmem with e | e | e | e <;> exact other _ (by decide) (by decide) e

end Sys2Proof.Machine
end

section
/-! Whole sequences, and sequences cut off, against a far side that answers (R106, R107, R122, R125), and what the reference
chip's store then holds (R60, R110, R124, R127, R197). -/

namespace Sys2Proof.Machine

/-! ### What the reference chip answers

The store as a function: what each address reads as. -/

/-- What the addresses read as after these events: each write that succeeded stored, and none that failed did (R60). -/
def readsAfter : (Byte → Byte) → List Event → Byte → Byte
  | r, [] => r
  | r, .wr a v :: es => readsAfter (Function.update r a v) es
  | r, .rd _ _ :: es => readsAfter r es
  | r, .rdErr _ _ :: es => readsAfter r es
  | r, .wrErr _ _ _ :: es => readsAfter r es
  | r, .wait _ :: es => readsAfter r es

/-- The reference chip whose addresses read so answers so: no access fails, and each read gives the stored byte (R60). -/
def ChipAnswers : (Byte → Byte) → List Event → Prop
  | _, [] => True
  | r, .wr a v :: es => ChipAnswers (Function.update r a v) es
  | r, .rd a b :: es => r a = b ∧ ChipAnswers r es
  | _, .rdErr _ _ :: _ => False
  | _, .wrErr _ _ _ :: _ => False
  | r, .wait _ :: es => ChipAnswers r es

/-- A script that has the reference chip answer these accesses; a wait uses up no answer. -/
def chipScript : List Event → List BusAnswer
  | [] => []
  | .wait _ :: es => chipScript es
  | .rd _ _ :: es => .chip :: chipScript es
  | .rdErr _ _ :: es => .chip :: chipScript es
  | .wr _ _ :: es => .chip :: chipScript es
  | .wrErr _ _ _ :: es => .chip :: chipScript es

/-- The reads after a write (R60). -/
theorem Memory.read_write {m : List Host.Cell} (hw : Memory.wf m = true) (a v : Byte) :
    Memory.read (Memory.write m a v) = Function.update (Memory.read m) a v := by
  funext c
  by_cases h : c = a
  · rw [h, Memory.read_write_same m a v hw, Function.update_self]
  · rw [Memory.read_write_other m v h, Function.update_of_ne h]

/-- The reference chip serves what it answers, and then holds what was written. -/
theorem FarSide.IsChip.serves {f : FarSide} {evs : List Event} (hf : f.IsChip) (hw : Memory.wf f.creg = true)
    (h : ChipAnswers (Memory.read f.creg) evs) :
    ∃ g, f.Serves evs g ∧ g.IsChip ∧ Memory.wf g.creg = true ∧
      Memory.read g.creg = readsAfter (Memory.read f.creg) evs := by
  induction evs generalizing f with
  | nil => exact ⟨f, rfl, hf, hw, rfl⟩
  | cons ev es ih =>
    cases ev with
    | rd a b =>
      obtain ⟨rfl, h⟩ := h
      obtain ⟨g, hg, hend⟩ := ih hf hw h
      exact ⟨g, ⟨f, FarSide.read_chip hf a, hg⟩, hend⟩
    | wr a v =>
      have hupd : Memory.read (f.store a v).creg = Function.update (Memory.read f.creg) a v := Memory.read_write hw a v
      obtain ⟨g, hg, hend⟩ := ih (FarSide.store_isChip hf a v) (Memory.write_wf _ _ _ hw) (by rw [hupd]; exact h)
      rw [hupd] at hend
      exact ⟨g, ⟨_, FarSide.write_chip hf a v, hg⟩, hend⟩
    | wait ms =>
      obtain ⟨g, hg, hend⟩ := ih hf hw h
      exact ⟨g, ⟨f, FarSide.waitGoesOn_chip hf, hg⟩, hend⟩
    | rdErr a e => exact h.elim
    | wrErr a v e => exact h.elim

/-- The answer at the head of the script is the next one. -/
theorem FarSide.next_cons {f : FarSide} {x : BusAnswer} {xs : List BusAnswer} (h : f.script = x :: xs) :
    f.next = (some x, { f with script := xs }) := by
  simp only [FarSide.next, h]

theorem FarSide.read_cons_chip {f : FarSide} {xs : List BusAnswer} (h : f.script = .chip :: xs) (a : Byte) :
    f.read a = (some (.ok (Memory.read f.creg a)), { f with script := xs }) := by
  simp only [FarSide.read, FarSide.next_cons h]

theorem FarSide.write_cons_chip {f : FarSide} {xs : List BusAnswer} (h : f.script = .chip :: xs) (a v : Byte) :
    f.write a v = (some (.ok ()), { f.store a v with script := xs }) := by
  simp only [FarSide.write, FarSide.next_cons h]
  rfl

/-- An access that meets a failure at the head of the script fails, and nothing is stored. -/
theorem FarSide.serves_failing {f : FarSide} {xs : List BusAnswer} {e : Word32} {ev bad : Event}
    (hs : f.script = .error e :: xs) (hbad : ev.failing e = some bad) : f.Serves [bad] { f with script := xs } := by
  have hnext := FarSide.next_cons hs
  cases ev <;> cases hbad
  case rd a b => exact ⟨_, by simp only [FarSide.read, hnext], rfl⟩
  case wr a v => exact ⟨_, by simp only [FarSide.write, hnext], rfl⟩

/-- The reference chip is never late. -/
theorem later_notMem_chipScript (evs : List Event) : BusAnswer.later ∉ chipScript evs := by
  induction evs with
  | nil => simp [chipScript]
  | cons ev es ih => cases ev <;> simpa [chipScript] using ih

/-- The reference chip that fails after these accesses serves what it answers and then the failure, and holds what was
written before it. -/
theorem FarSide.serves_cut {f : FarSide} {evs : List Event} {e : Word32} {ev bad : Event} (hr : f.rest = .chip)
    (hw : Memory.wf f.creg = true) (hs : f.script = chipScript evs ++ [.error e])
    (h : ChipAnswers (Memory.read f.creg) evs) (hbad : ev.failing e = some bad) :
    ∃ g, f.Serves (evs ++ [bad]) g ∧ Memory.read g.creg = readsAfter (Memory.read f.creg) evs := by
  induction evs generalizing f with
  | nil => exact ⟨_, serves_failing hs hbad, rfl⟩
  | cons ev' es ih =>
    cases ev' with
    | rd a b =>
      obtain ⟨rfl, h⟩ := h
      obtain ⟨g, hg, hend⟩ := ih (f := { f with script := chipScript es ++ [.error e] }) hr hw rfl h
      exact ⟨g, ⟨_, FarSide.read_cons_chip hs a, hg⟩, hend⟩
    | wr a v =>
      have hupd : Memory.read (f.store a v).creg = Function.update (Memory.read f.creg) a v := Memory.read_write hw a v
      obtain ⟨g, hg, hend⟩ := ih (f := { f.store a v with script := chipScript es ++ [.error e] }) hr
        (Memory.write_wf _ _ _ hw) rfl (by rw [hupd]; exact h)
      rw [hupd] at hend
      exact ⟨g, ⟨_, FarSide.write_cons_chip hs a v, hg⟩, hend⟩
    | wait ms =>
      have hprompt : f.Prompt := ⟨by rw [hs]; simp [later_notMem_chipScript], hr⟩
      obtain ⟨g, hg, hend⟩ := ih hr hw hs h
      exact ⟨g, ⟨f, FarSide.waitGoesOn_prompt hprompt, hg⟩, hend⟩
    | rdErr a e => exact h.elim
    | wrErr a v e => exact h.elim

/-! ### Whole sequences -/

section sequences

variable {s : State} {f : FarSide} {slot : Byte} {c : Slot}

theorem exec_rdch_start (hc : s.HasSlot slot c) :
    exec (.rdch slot) s = runSeq 8 (s.running (.start .rdch c.index 0 0 0 0) s.far []) := by
  simp only [exec, execRdch, useSlot_ok hc, ← running_start]
  rfl

theorem exec_wrch_start (hc : s.HasSlot slot c) (d0 d1 d2 d3 : Byte) :
    exec (.wrch slot d0 d1 d2 d3) s = runSeq 8 (s.running (.start .wrch c.index d0 d1 d2 d3) s.far []) := by
  simp only [exec, execWrch, useSlot_ok hc, ← running_start]
  rfl

theorem exec_init_start (s : State) :
    exec .init s = runSeq 8 ((s.setCtl false).running (.start .init 0 0 0 0 0) s.far []) := by
  simp only [exec, execInit, begin_ok, running_start]
  rfl

theorem exec_setrate_start (hv : s.ctlValid = true) (p : Byte) :
    exec (.setrate p) s = runSeq 8 (s.running (.start .setrate 0 p 0 0 0) s.far []) := by
  simp only [exec, execSetrate, requireCtl, hv, ← running_start]
  rfl

/-- `RDCH` whose four reads are answered (R106). -/
theorem exec_rdch_serves {b0 b1 b2 b3 : Byte} (hc : s.HasSlot slot c)
    (h : s.far.Serves (rdchTrace c.index b0 b1 b2 b3) f) : exec (.rdch slot) s = .next
      { s with
        res0 := b0.setWidth 16
        res1 := b1.setWidth 16
        res2 := b2.setWidth 16
        res3 := b3.setWidth 16
        code := 0
        seq := Sequencer.idle
        busy := false
        far := f
        events := s.events ++ rdchTrace c.index b0 b1 b2 b3 } := by
  obtain ⟨f1, h1, f2, h2, f3, h3, f4, h4, rfl⟩ := h
  rw [exec_rdch_start hc, runSeq_read rfl h1 rfl, runSeq_read rfl h2 rfl, runSeq_read rfl h3 rfl,
    runSeq_read_last rfl h4 rfl, running_complete_rdch rfl]
  rfl

/-- `WRCH` whose four writes are answered (R107). -/
theorem exec_wrch_serves {d0 d1 d2 d3 : Byte} (hc : s.HasSlot slot c)
    (h : s.far.Serves (wrchTrace c.index d0 d1 d2 d3) f) :
    exec (.wrch slot d0 d1 d2 d3) s = .next (s.endedWrites f (wrchTrace c.index d0 d1 d2 d3)) := by
  obtain ⟨f1, h1, f2, h2, f3, h3, f4, h4, rfl⟩ := h
  rw [exec_wrch_start hc, runSeq_write rfl h1 rfl, runSeq_write rfl h2 rfl, runSeq_write rfl h3 rfl,
    runSeq_write_last rfl h4 rfl, running_complete_writes (.inl rfl)]
  rfl

/-- `INIT` whose accesses are answered (R122). -/
theorem exec_init_serves {m : Byte} (h : s.far.Serves (initTrace m) f) :
    exec .init s = .next ((s.setCtl true).endedWrites f (initTrace m)) := by
  obtain ⟨f1, h1, f2, h2, f3, h3, f4, h4, f5, h5, f6, h6, rfl⟩ := h
  rw [exec_init_start, runSeq_write rfl h1 rfl, runSeq_write rfl h2 rfl, runSeq_wait rfl h3 rfl, runSeq_read rfl h4 rfl,
    runSeq_write rfl h5 rfl, runSeq_wait_last rfl h6 rfl, running_complete_init rfl]
  rfl

/-- `SETRATE` whose accesses are answered (R125). -/
theorem exec_setrate_serves {p old : Byte} (hv : s.ctlValid = true) (h : s.far.Serves (setrateTrace p old) f) :
    exec (.setrate p) s = .next (s.endedWrites f (setrateTrace p old)) := by
  obtain ⟨f1, h1, f2, h2, f3, h3, f4, h4, f5, h5, f6, h6, rfl⟩ := h
  rw [exec_setrate_start hv, runSeq_read rfl h1 rfl, runSeq_compute rfl rfl, runSeq_write rfl h2 rfl,
    runSeq_write rfl h3 rfl, runSeq_write rfl h4 rfl, runSeq_wait rfl h5 rfl, runSeq_write_last rfl h6 rfl,
    running_complete_writes (.inr (.inl rfl))]
  rfl

end sequences

/-! ### Sequences cut off -/

/-- In this row, with these events recorded, the command ends with a TransportError wherever the rest of its trace is cut off
(R163, R166). -/
def CutsOff (n : Nat) (s : State) (q : Sequencer) (evs full : List Event) : Prop :=
  ∀ (e : Word32) (f g : FarSide) (rest : List Event), CutOff full e rest → f.Serves rest g →
    runSeq n (s.running q f evs) = .next (s.endedTransport e g (evs ++ rest))

section cutsOff

variable {n : Nat} {s : State} {q : Sequencer} {evs full : List Event} {a v b : Byte}

theorem cutsOff_read (ha : q.action = some (.read a)) (hl : (q.step.toNat == q.op.last) = false)
    (hnext : CutsOff n s (q.after b) (evs ++ [.rd a b]) full) : CutsOff (n + 1) s q evs (.rd a b :: full) := by
  intro e f g rest hcut hs
  rcases cutOff_cons.1 hcut with ⟨bad, hbad, rfl⟩ | ⟨rest, hrest, rfl⟩
  · cases hbad
    obtain ⟨_, h1, rfl⟩ := hs
    exact runSeq_read_failed ha h1
  · obtain ⟨f1, h1, hs⟩ := hs
    rw [runSeq_read ha h1 hl, hnext e f1 g rest hrest hs, List.append_assoc, List.singleton_append]

theorem cutsOff_write (ha : q.action = some (.write a v)) (hl : (q.step.toNat == q.op.last) = false)
    (hnext : CutsOff n s q.next (evs ++ [.wr a v]) full) : CutsOff (n + 1) s q evs (.wr a v :: full) := by
  intro e f g rest hcut hs
  rcases cutOff_cons.1 hcut with ⟨bad, hbad, rfl⟩ | ⟨rest, hrest, rfl⟩
  · cases hbad
    obtain ⟨_, h1, rfl⟩ := hs
    exact runSeq_write_failed ha h1
  · obtain ⟨f1, h1, hs⟩ := hs
    rw [runSeq_write ha h1 hl, hnext e f1 g rest hrest hs, List.append_assoc, List.singleton_append]

theorem cutsOff_write_last (ha : q.action = some (.write a v)) : CutsOff (n + 1) s q evs [.wr a v] := by
  intro e f g rest hcut hs
  rcases cutOff_cons.1 hcut with ⟨bad, hbad, rfl⟩ | ⟨rest, hrest, rfl⟩
  · cases hbad
    obtain ⟨_, h1, rfl⟩ := hs
    exact runSeq_write_failed ha h1
  · exact absurd hrest not_cutOff_nil

/-- A wait cannot be the cut. -/
theorem cutsOff_wait (ha : q.action = some .wait) (hl : (q.step.toNat == q.op.last) = false)
    (hnext : CutsOff n s q.next (evs ++ [.wait 5]) full) : CutsOff (n + 1) s q evs (.wait 5 :: full) := by
  intro e f g rest hcut hs
  rcases cutOff_cons.1 hcut with ⟨bad, hbad, rfl⟩ | ⟨rest, hrest, rfl⟩
  · cases hbad
  · obtain ⟨f1, h1, hs⟩ := hs
    rw [runSeq_wait ha h1 hl, hnext e f1 g rest hrest hs, List.append_assoc, List.singleton_append]

theorem cutsOff_compute (ha : q.action = some .compute) (hl : (q.step.toNat == q.op.last) = false)
    (hnext : CutsOff n s q.next evs full) : CutsOff (n + 1) s q evs full := by
  intro e f g rest hcut hs
  rw [runSeq_compute ha hl, hnext e f g rest hcut hs]

end cutsOff

/-- `SETRATE` cut off at an access that fails (R125). -/
theorem exec_setrate_cutOff {s : State} {f : FarSide} {p old : Byte} {e : Word32} {evs : List Event}
    (hv : s.ctlValid = true) (hcut : CutOff (setrateTrace p old) e evs) (h : s.far.Serves evs f) :
    exec (.setrate p) s = .next (s.endedTransport e f evs) := by
  have hrows : CutsOff 8 s (.start .setrate 0 p 0 0 0) [] (setrateTrace p old) :=
    cutsOff_read rfl rfl <| cutsOff_compute rfl rfl <| cutsOff_write rfl rfl <| cutsOff_write rfl rfl <|
      cutsOff_write rfl rfl <| cutsOff_wait rfl rfl <| cutsOff_write_last rfl
  rw [exec_setrate_start hv]
  exact hrows e s.far f evs hcut h

/-! ### On the reference chip -/

/-- Settles O38: the four writes go to four addresses, so each read finds its own byte. -/
theorem writeThenReadReturnsBytes : Obligations.WriteThenReadReturnsBytes := by
  intro s slot c d0 d1 d2 d3 hc hf hw
  obtain ⟨f, hwrites, hf, hw, hm⟩ := hf.serves (evs := wrchTrace c.index d0 d1 d2 d3) hw trivial
  have hanswers : ChipAnswers (Memory.read f.creg) (rdchTrace c.index d0 d1 d2 d3) := by
    simp [hm, readsAfter, wrchTrace, ChipAnswers, rdchTrace, channelAddr_eq_iff]
  obtain ⟨g, hreads, -⟩ := hf.serves hw hanswers
  exact ⟨_, _, exec_wrch_serves hc hwrites, exec_rdch_serves hc hreads, rfl, rfl, rfl, rfl, rfl⟩

/-- Settles O40: the last write to each of the two registers is `INIT`'s own, and the byte it reads is the one it wrote. -/
theorem initOnReferenceChip : Obligations.InitOnReferenceChip := by
  intro s hf hw
  have hanswers : ChipAnswers (Memory.read s.far.creg) (initTrace 0x01) := by simp [initTrace, ChipAnswers]
  obtain ⟨f, hserves, -, -, hm⟩ := hf.serves hw hanswers
  refine ⟨_, exec_init_serves hserves, rfl, rfl, ?_, ?_⟩ <;>
    simp [State.endedWrites, hm, initTrace, readsAfter]

/-- Settles O43: `PRE_SCALE` is written once, and `MODE_1` last with the byte read at the start and `RESTART`. -/
theorem setrateOnReferenceChip : Obligations.SetrateOnReferenceChip := by
  intro s p hv hf hw
  obtain ⟨f, hserves, -, -, hm⟩ :=
    hf.serves (evs := setrateTrace p (Memory.read s.far.creg 0x00)) hw ⟨rfl, trivial⟩
  refine ⟨_, exec_setrate_serves hv hserves, rfl, ?_, ?_⟩ <;>
    simp [State.endedWrites, hm, setrateTrace, readsAfter]

/-- The trace of `SETRATE` before its `n`-th access, counted from 0: the wait comes before the last one (R126). -/
def setrateBefore (n : Nat) (p old : Byte) : List Event := (setrateTrace p old).take (if n < 4 then n else n + 1)

/-- The trace of `SETRATE` can be cut off at each of its five accesses, and the accesses before it are answered if the byte
read is the one stored. -/
theorem setrateBefore_cut {n : Nat} (hn : n < 5) (p : Byte) (r : Byte → Byte) (e : Word32) :
    (∃ ev rest bad, setrateTrace p (r 0x00) = setrateBefore n p (r 0x00) ++ ev :: rest ∧ ev.failing e = some bad) ∧
      chipScript (setrateBefore n p (r 0x00)) = List.replicate n .chip ∧
      ChipAnswers r (setrateBefore n p (r 0x00)) := by
  interval_cases n <;> exact ⟨⟨_, _, _, rfl, rfl⟩, rfl, by simp [setrateBefore, setrateTrace, ChipAnswers]⟩

/-- Settles O44: the store holds what the accesses before the failing one wrote. -/
theorem setrateFailurePoints : Obligations.SetrateFailurePoints := by
  intro s t p e n hv hr hw hn hs h
  obtain ⟨⟨ev, rest, bad, htrace, hbad⟩, hscript, hanswers⟩ := setrateBefore_cut hn p (Memory.read s.far.creg) e
  rw [← hscript] at hs
  obtain ⟨f, hserves, hm⟩ := FarSide.serves_cut hr hw hs hanswers hbad
  rw [exec_setrate_cutOff hv ⟨_, ev, rest, bad, htrace, hbad, rfl⟩ hserves] at h
  cases h
  refine ⟨rfl, rfl, ?_⟩
  simp only [State.endedTransport, hm]
  interval_cases n <;> simp [setrateBefore, setrateTrace, readsAfter]

end Sys2Proof.Machine
end

section
/-! The encoding (spec/30): the decoder and the encoder undo each other (R81 to R85), the legal words are those of R85's table
(R85, R86), and the pseudo-instructions (R90). -/

namespace Sys2Proof

/-! ### A word that decodes is the encoding of its command -/

/-- A 16-bit field whose high byte is zero is its low byte (R82, R83). -/
theorem zero_append_lowByte {v : Half} (h : highByte v = 0) : 0#8 ++ lowByte v = v := by
  conv_rhs => rw [← highByte_append_lowByte v, h]
  rfl

/-- The must-be-zero check passes its command on exactly when it holds (R88). -/
theorem require_eq_ok_iff {zero : Bool} {i j : Instr} : require zero i = .ok j ↔ zero = true ∧ i = j := by
  cases zero <;> simp [require]

/-- Fields that decode are those the command is encoded with: the opcode picks the row, and the fields that its encoding leaves
zero have been found zero (R83, R88). -/
theorem encode_of_decodeFields {op slot : Byte} {a b c : Half} {i : Instr} (h : decodeFields op slot a b c = .ok i) :
    encode i = packWord op slot a b c := by
  unfold decodeFields at h
  split at h
  case h_15 => cases h -- no opcode of the fourteen
  all_goals
    rename_i hop
    obtain ⟨-, rfl⟩ := BitVec.toNat_eq_nat.1 hop
    simp only [require_eq_ok_iff, Bool.and_eq_true, beq_iff_eq, Except.ok.injEq] at h
  case h_12 => rw [← h]; rfl -- `MKSERVO` has no must-be-zero field
  all_goals
    obtain ⟨hzero, rfl⟩ := h
    simp [encode, hzero, zero_append_lowByte, highByte_append_lowByte]

/-- A word decodes to a command exactly when it is the command's encoding (R81, R84, R85). -/
theorem decode_eq_ok_iff {w : CmdWord} {i : Instr} : decode w = .ok i ↔ encode i = w := by
  constructor
  · intro h
    rw [encode_of_decodeFields h, packWord_fields]
  · rintro rfl
    exact decode_encode i

/-! ### The rows of R85 -/

/-- A word matches a row exactly when its fields do. -/
theorem matches_iff_fields {r : OpRow} {w : CmdWord} :
    r.matches w = true ↔ opOf w &&& opOf r.mask = opOf r.pattern ∧ slotOf w &&& slotOf r.mask = slotOf r.pattern ∧
      aOf w &&& aOf r.mask = aOf r.pattern ∧ bOf w &&& bOf r.mask = bOf r.pattern ∧
      cOf w &&& cOf r.mask = cOf r.pattern := by
  rw [← packWord_inj, ← packWord_and, packWord_fields, packWord_fields, packWord_fields, OpRow.matches, beq_iff_eq]

/-- A word is packed from five values exactly when they are its fields (R81). -/
theorem packWord_eq_iff {op slot : Byte} {a b c : Half} {w : CmdWord} :
    packWord op slot a b c = w ↔ opOf w = op ∧ slotOf w = slot ∧ aOf w = a ∧ bOf w = b ∧ cOf w = c := by
  rw [eq_comm, ← packWord_inj, packWord_fields]

theorem byte_and_mask (v : Byte) : v &&& 0xFF#8 = v := BitVec.and_allOnes

theorem half_and_mask (v : Half) : v &&& 0xFFFF#16 = v := BitVec.and_allOnes

/-- The mask finds the high byte of a field zero exactly when the field is its low byte (R83). -/
theorem and_highMask_eq_zero_iff {v : Half} : v &&& 0xFF00#16 = 0#16 ↔ v = 0#8 ++ lowByte v := by
  constructor
  · intro h
    have hmask : highByte (v &&& 0xFF00#16) = highByte v &&& 0xFF#8 := BitVec.extractLsb'_and
    rw [h, byte_and_mask] at hmask
    exact (zero_append_lowByte hmask.symm).symm
  · intro h
    rw [h]
    exact Laws.zero_append_and _

/-- A word that matches a row encodes the row's command with the word's own fields as operands (R82, R85). -/
theorem exists_encode_of_matches {w : CmdWord} :
    ∀ r ∈ opRows, r.matches w = true → ∃ i : Instr, i.mnemonic = r.mnemonic ∧ encode i = w := by
  simp only [opRows, List.forall_mem_cons]
  refine ⟨fun h => ⟨.mkled (slotOf w) (aOf w), rfl, ?_⟩,
    fun h => ⟨.chidx (slotOf w), rfl, ?_⟩,
    fun h => ⟨.regoff (slotOf w) (lowByte (aOf w)), rfl, ?_⟩,
    fun h => ⟨.addr (slotOf w), rfl, ?_⟩,
    fun h => ⟨.rdch (slotOf w), rfl, ?_⟩,
    fun h => ⟨.wrch (slotOf w) (lowByte (aOf w)) (highByte (aOf w)) (lowByte (bOf w)) (highByte (bOf w)), rfl, ?_⟩,
    fun h => ⟨.init, rfl, ?_⟩,
    fun h => ⟨.setrate (lowByte (aOf w)), rfl, ?_⟩,
    fun h => ⟨.calcps (aOf w), rfl, ?_⟩,
    fun h => ⟨.setch (slotOf w) (aOf w) (bOf w), rfl, ?_⟩,
    fun h => ⟨.setall (aOf w) (bOf w), rfl, ?_⟩,
    fun h => ⟨.mkservo (slotOf w) (aOf w) (bOf w) (cOf w), rfl, ?_⟩,
    fun h => ⟨.d2p (slotOf w) (aOf w), rfl, ?_⟩,
    fun h => ⟨.p2d (slotOf w) (aOf w), rfl, ?_⟩, by simp⟩
  all_goals
    rw [encode, packWord_eq_iff]
    simpa [highByte_append_lowByte, ← and_highMask_eq_zero_iff, byte_and_mask, half_and_mask,
      opOf, slotOf, aOf, bOf, cOf] using matches_iff_fields.1 h

/-- Every command's word matches the row that bears its mnemonic (R84, R85). -/
theorem encodesLegal : ∀ i : Instr, Laws.EncodesLegal.Statement i
  | .mkled slot index => Laws.EncodesLegal.mkled slot index
  | .chidx slot => Laws.EncodesLegal.chidx slot
  | .regoff slot base => Laws.EncodesLegal.regoff slot base
  | .addr slot => Laws.EncodesLegal.addr slot
  | .rdch slot => Laws.EncodesLegal.rdch slot
  | .wrch slot d0 d1 d2 d3 => Laws.EncodesLegal.wrch slot d0 d1 d2 d3
  | .init => Laws.EncodesLegal.init
  | .setrate prescale => Laws.EncodesLegal.setrate prescale
  | .calcps rate => Laws.EncodesLegal.calcps rate
  | .setch slot on off => Laws.EncodesLegal.setch slot on off
  | .setall on off => Laws.EncodesLegal.setall on off
  | .mkservo slot index min max => Laws.EncodesLegal.mkservo slot index min max
  | .d2p slot angle => Laws.EncodesLegal.d2p slot angle
  | .p2d slot ticks => Laws.EncodesLegal.p2d slot ticks

/-- A word that decodes matches a row (R85, R86). -/
theorem exists_matches_of_decode {w : CmdWord} {i : Instr} (h : decode w = .ok i) : ∃ r ∈ opRows, r.matches w = true := by
  obtain ⟨r, hr, -, hmatch⟩ := encodesLegal i
  rw [decode_eq_ok_iff.1 h] at hmatch
  exact ⟨r, hr, hmatch⟩

/-- A word that matches no row is refused (R86). -/
theorem decode_of_no_match {w : CmdWord} (h : ∀ r ∈ opRows, ¬ r.matches w = true) : ∃ e, decode w = .error e := by
  cases hw : decode w with
  | error e => exact ⟨e, rfl⟩
  | ok i =>
    obtain ⟨r, hr, hmatch⟩ := exists_matches_of_decode hw
    exact absurd hmatch (h r hr)

/-- Settles O3: the decoder reads back what the encoder packed. -/
theorem decodeOfEncode : Obligations.DecodeOfEncode := decode_encode

/-- Settles O4: the fields that the decoder does not hand on are those it has found zero. -/
theorem encodeOfDecode : Obligations.EncodeOfDecode := fun _ _ => decode_eq_ok_iff.1

/-- Settles O2: a word in a row encodes the row's command, and a word in no row is refused. -/
theorem decodeNamesTheMatchingRow : Obligations.DecodeNamesTheMatchingRow := by
  intro w
  cases hfind : opRows.find? (·.matches w) with
  | none =>
    obtain ⟨e, hw⟩ := decode_of_no_match (List.find?_eq_none.1 hfind)
    rw [rowOf, hfind, hw]
    rfl
  | some r =>
    obtain ⟨i, hname, hi⟩ := exists_encode_of_matches r (List.mem_of_find?_eq_some hfind)
      (List.find?_some (p := (OpRow.matches · w)) hfind)
    rw [rowOf, hfind, decode_eq_ok_iff.2 hi]
    exact congrArg some hname

/-- Settles O5: the decoder evaluated on each word. -/
theorem workedEncodingsDecode : Obligations.WorkedEncodingsDecode := by
  unfold Obligations.WorkedEncodingsDecode
  decide

end Sys2Proof

namespace Sys2Proof.Machine

/-- An idle block refuses an illegal word with `ILLEGAL_CMD` (R86). -/
theorem present_illegal {s : State} {w : CmdWord} {e : DecodeError} (hb : s.busy = false) (hw : decode w = .error e) :
    present w s = .next (s.raise .illegalCmd) := by
  simp [present, hb, hw]

/-- Settles O6: a word in no row is refused, and the exception taken writes the code alone. -/
theorem illegalWordOnlySetsStatus : Obligations.IllegalWordOnlySetsStatus := by
  intro s w h hb hh hw
  obtain ⟨e, he⟩ := decode_of_no_match (List.any_eq_false.1 hw)
  rw [step_command hh, present_illegal (s := s.setHost h) hb he]
  rfl

/-- `ADDR` of a valid slot leaves the four addresses of its channel in the result registers (R105). -/
theorem exec_addr_hasSlot {s : State} {slot : Byte} {c : Slot} (hc : s.HasSlot slot c) :
    exec (.addr slot) s = .next (s.setRes (half (quad c.index).onLow) (half (quad c.index).onHigh)
      (half (quad c.index).offLow) (half (quad c.index).offHigh)).complete := by
  simp only [exec, execAddr, useSlot_ok hc]
  rfl

/-- Settles O34: each derived name reads its registers of the state that `ADDR` leaves. -/
theorem pseudoInstructionsExpand : Obligations.PseudoInstructionsExpand := by
  refine ⟨fun s slot c hc => ⟨_, exec_addr_hasSlot hc, rfl, rfl, rfl, rfl, rfl, rfl, rfl⟩, fun slot => ?_, fun _ _ => rfl⟩
  simp [Pseudo.expand]

end Sys2Proof.Machine
end

section
/-! The channel addressing commands (R102 to R107), and `SETCH` beside `WRCH` (R121, R130). -/

namespace Sys2Proof.Machine

/-! ### How a command reads its slot -/

section slots

variable {s : State} {slot : Byte} {c : Slot}

/-- A refused slot ends a command that only computes with `BadSlot` (R101, R164). -/
theorem settle_noSlot (h : s.NoSlot slot) (k : Slot → Except Exn State) :
    s.settle (useSlot s slot >>= k) = s.ended 8 := by
  rw [useSlot_bad (noSlot_iff.1 h)]
  rfl

/-- A refused slot ends a bus command with `BadSlot` before its first access (R101, R165). -/
theorem begin_noSlot (h : s.NoSlot slot) (k : Slot → Except Exn Sequencer) :
    s.begin (useSlot s slot >>= k) = .next (s.ended 8) := by
  rw [useSlot_bad (noSlot_iff.1 h)]
  rfl

/-- A valid slot hands its descriptor to the rest of the command (R101). -/
theorem useSlot_bind_hasSlot {α : Type} (h : s.HasSlot slot c) (k : Slot → Except Exn α) :
    useSlot s slot >>= k = k c := by
  rw [useSlot_ok h]
  rfl

end slots

/-- A byte base plus four times a channel index fits a result register (R104, R105). -/
theorem toNat_half_regoff {base : Nat} (h : base < 256) (i : BitVec 4) :
    (half (regoff base i)).toNat = base + 4 * i.toNat := by
  have := i.isLt
  simp only [half, regoff, BitVec.toNat_ofNat]
  omega

/-! ### The commands that only compute -/

/-- Settles O30: the slot is checked first, then the index, and what is written is the whole slot. -/
theorem mkledResult : Obligations.MkledResult := by
  refine fun s slot index => ⟨decode_encode (.mkled slot index), fun hs hi => ?_, fun hs hi => ?_, fun hs => ?_⟩
  · simp only [exec, execMkled, newSlot_ok hs, checkIndex_ok hi, ← BitVec.setWidth_eq_extractLsb' (by decide : 4 ≤ 16)]
    rfl
  · simp only [exec, execMkled, newSlot_ok hs, checkIndex_bad hi]
    rfl
  · simp only [exec, execMkled, newSlot_bad hs]
    rfl

/-- Settles O31: the index is read from the descriptor, zero-extended. -/
theorem chidxResult : Obligations.ChidxResult := by
  refine fun s slot => ⟨decode_encode (.chidx slot), fun c hc => ?_, fun h => congrArg _ (settle_noSlot h _)⟩
  simp only [exec, execChidx, useSlot_bind_hasSlot hc, half, BitVec.ofNat_toNat]
  rfl

/-- Settles O32: the sum is not cut to eight bits, because it fits the result register. -/
theorem regoffResult : Obligations.RegoffResult := by
  refine fun s slot base => ⟨decode_encode (.regoff slot base), fun c hc => ?_, fun h => congrArg _ (settle_noSlot h _)⟩
  refine ⟨half (regoff base.toNat c.index), toNat_half_regoff base.isLt _, ?_⟩
  simp only [exec, execRegoff, useSlot_bind_hasSlot hc]
  rfl

/-- Settles O33: each of the four addresses fits its result register. -/
theorem addrResult : Obligations.AddrResult := by
  refine fun s slot => ⟨decode_encode (.addr slot), fun c hc => ?_, fun h => congrArg _ (settle_noSlot h _)⟩
  have hfit (base : Nat) (hb : base ≤ 9) := toNat_half_regoff (Nat.lt_of_le_of_lt hb (by decide)) c.index
  exact ⟨_, _, _, _, hfit 6 (by decide), hfit 7 (by decide), hfit 8 (by decide), hfit 9 (by decide),
    exec_addr_hasSlot hc⟩

/-! ### The commands that access the bus -/

/-- The last row of a table, a read, can only fail. -/
theorem cutsOff_read_last {n : Nat} {s : State} {q : Sequencer} {evs : List Event} {a b : Byte}
    (ha : q.action = some (.read a)) : CutsOff (n + 1) s q evs [.rd a b] := by
  intro e f g rest hcut hs
  rcases cutOff_cons.1 hcut with ⟨bad, hbad, rfl⟩ | ⟨rest, hrest, rfl⟩
  · cases hbad
    obtain ⟨_, h1, rfl⟩ := hs
    exact runSeq_read_failed ha h1
  · exact absurd hrest not_cutOff_nil

section cutOff

variable {s : State} {f : FarSide} {slot : Byte} {c : Slot} {e : Word32} {evs : List Event}

/-- `RDCH` cut off at a read that fails (R106). -/
theorem exec_rdch_cutOff {b0 b1 b2 b3 : Byte} (hc : s.HasSlot slot c)
    (hcut : CutOff (rdchTrace c.index b0 b1 b2 b3) e evs) (h : s.far.Serves evs f) :
    exec (.rdch slot) s = .next (s.endedTransport e f evs) := by
  have hrows : CutsOff 8 s (.start .rdch c.index 0 0 0 0) [] (rdchTrace c.index b0 b1 b2 b3) :=
    cutsOff_read rfl rfl <| cutsOff_read rfl rfl <| cutsOff_read rfl rfl <| cutsOff_read_last rfl
  rw [exec_rdch_start hc]
  exact hrows e s.far f evs hcut h

/-- `WRCH` cut off at a write that fails (R107). -/
theorem exec_wrch_cutOff {d0 d1 d2 d3 : Byte} (hc : s.HasSlot slot c)
    (hcut : CutOff (wrchTrace c.index d0 d1 d2 d3) e evs) (h : s.far.Serves evs f) :
    exec (.wrch slot d0 d1 d2 d3) s = .next (s.endedTransport e f evs) := by
  have hrows : CutsOff 8 s (.start .wrch c.index d0 d1 d2 d3) [] (wrchTrace c.index d0 d1 d2 d3) :=
    cutsOff_write rfl rfl <| cutsOff_write rfl rfl <| cutsOff_write rfl rfl <| cutsOff_write_last rfl
  rw [exec_wrch_start hc]
  exact hrows e s.far f evs hcut h

end cutOff

/-- Settles O35: the four reads are answered, or one of them fails, or the slot is refused before the first. -/
theorem rdchResult : Obligations.RdchResult := fun _ slot _ _ _ _ _ _ =>
  ⟨decode_encode (.rdch slot), exec_rdch_serves, fun _ _ => exec_rdch_cutOff, fun h => begin_noSlot h _⟩

/-- Settles O36: the four writes are answered, or one of them fails, or the slot is refused before the first. -/
theorem wrchResult : Obligations.WrchResult := fun _ slot _ d0 d1 d2 d3 _ =>
  ⟨decode_encode (.wrch slot d0 d1 d2 d3), exec_wrch_serves, fun _ _ => exec_wrch_cutOff, fun h => begin_noSlot h _⟩

/-- Settles O49: past the gate R120, `SETCH` begins the same sequence for the same slot, with the bytes of R121. -/
theorem setchIsWrchOfItsBytes : Obligations.SetchIsWrchOfItsBytes := by
  intro s slot on off hv
  simp only [exec, execSetch, execWrch, requireCtl, hv, if_true, ← lo_eq, ← hi_eq]
  rfl

end Sys2Proof.Machine
end

section
/-! The controller commands (R120 to R133): `ctl.valid`, the five commands of the family, and the order of the accesses. -/

namespace Sys2Proof.Machine

/-! ### `ctl.valid` -/

/-- A move of the block that changes `ctl.valid` is one of `INIT` (R133). -/
theorem proceed_ctl_changed {s t : State} (h : proceed s = .next t) (hne : t.ctlValid ≠ s.ctlValid) :
    s.busy = true ∧ s.seq.op = .init := by
  unfold proceed at h
  split at h
  next hb =>
    obtain ⟨-, -, -, hctl⟩ := runSeq_frame h
    exact ⟨hb, by_contra fun hop => hne (hctl hop)⟩
  next => cases h; exact absurd rfl hne

/-- A presented word that changes `ctl.valid` is an accepted `INIT` (R35, R86, R133). -/
theorem present_ctl_changed {w : CmdWord} {s t : State} (h : present w s = .next t) (hne : t.ctlValid ≠ s.ctlValid) :
    s.busy = false ∧ decode w = .ok .init := by
  unfold present at h
  split at h
  next => cases h; exact absurd rfl hne
  next hb =>
    refine ⟨by simpa using hb, ?_⟩
    split at h
    next i hw => rw [hw, show i = .init from by_contra fun hi => hne (exec_ctlValid hi h)]
    next => cases h; simp at hne

/-- Settles O17: a move changes `ctl.valid` only as `INIT`, a word only as an accepted `INIT`, a read never. -/
theorem controllerChangesOnlyByInit : Obligations.ControllerChangesOnlyByInit := by
  intro s t h hne
  unfold step at h
  split at h
  next => exact .inr (.inl (proceed_ctl_changed h hne))
  next l hl => exact .inr (.inl (proceed_ctl_changed (s := s.setHost l) h hne))
  next w l hl =>
    obtain ⟨hb, hw⟩ := present_ctl_changed h hne
    exact .inr (.inr ⟨hb, w, l, hl, hw⟩)
  next n l hl =>
    cases h
    refine absurd ?_ hne
    unfold hostRead
    split <;> rfl
  next l hl => exact .inl ⟨l, hl⟩

/-! ### The gate -/

/-- Without a Controller a bus command ends with `NoController` before its first access (R120, R165). -/
theorem begin_noController {s : State} (hv : s.ctlValid = false) (k : Unit → Except Exn Sequencer) :
    s.begin (requireCtl s >>= k) = .next (s.ended 7) := by
  simp only [requireCtl, hv]
  rfl

/-! ### `INIT` and `SETRATE` -/

/-- A wait in the last row cannot be the cut. -/
theorem cutsOff_wait_last {n : Nat} {s : State} {q : Sequencer} {evs : List Event} : CutsOff n s q evs [.wait 5] := by
  intro e f g rest hcut _
  rcases cutOff_cons.1 hcut with ⟨bad, hbad, -⟩ | ⟨rest, hrest, -⟩
  · cases hbad
  · exact absurd hrest not_cutOff_nil

/-- `INIT` cut off at an access that fails (R122): `ctl.valid` was cleared before the first. -/
theorem exec_init_cutOff {s : State} {f : FarSide} {m : Byte} {e : Word32} {evs : List Event}
    (hcut : CutOff (initTrace m) e evs) (h : s.far.Serves evs f) :
    exec .init s = .next ((s.setCtl false).endedTransport e f evs) := by
  have hrows : CutsOff 8 (s.setCtl false) (.start .init 0 0 0 0 0) [] (initTrace m) :=
    cutsOff_write rfl rfl <| cutsOff_write rfl rfl <| cutsOff_wait rfl rfl <| cutsOff_read rfl rfl <|
      cutsOff_write rfl rfl cutsOff_wait_last
  rw [exec_init_start]
  exact hrows e s.far f evs hcut h

/-- Settles O39: all accesses are answered, or one of them fails. -/
theorem initResult : Obligations.InitResult := fun _ _ _ =>
  ⟨decode_encode .init, exec_init_serves, fun _ _ => exec_init_cutOff⟩

/-- Settles O41: all accesses are answered, or one of them fails, or there is no Controller. -/
theorem setrateResult : Obligations.SetrateResult := fun _ p _ _ =>
  ⟨decode_encode (.setrate p), exec_setrate_serves, fun _ _ => exec_setrate_cutOff, fun hv => begin_noController hv _⟩

/-! ### `SETCH` and `SETALL` -/

/-- Settles O48: with a Controller, `SETCH` is the `WRCH` of its four bytes, and ends as that does. -/
theorem setchResult : Obligations.SetchResult := by
  intro s slot c on off f
  have hwrch := setchIsWrchOfItsBytes s slot on off
  refine ⟨decode_encode (.setch slot on off), fun hv hc h => ?_, fun e evs hv hc hcut h => ?_,
    fun hv => begin_noController hv _, fun hv hno => ?_⟩
  · exact (hwrch hv).trans (exec_wrch_serves hc h)
  · exact (hwrch hv).trans (exec_wrch_cutOff hc hcut h)
  · exact (hwrch hv).trans (begin_noSlot hno _)

section setall

variable {s : State} {f : FarSide} {on off : Half}

theorem exec_setall_start (hv : s.ctlValid = true) (on off : Half) :
    exec (.setall on off) s = runSeq 8 (s.running (.start .setall 0 (on.extractLsb' 0 8) (on.extractLsb' 8 8)
      (off.extractLsb' 0 8) (off.extractLsb' 8 8)) s.far []) := by
  simp only [exec, execSetall, requireCtl, hv, ← lo_eq, ← hi_eq, ← running_start]
  rfl

/-- `SETALL` whose four writes are answered (R131). -/
theorem exec_setall_serves (hv : s.ctlValid = true) (h : s.far.Serves (setallTrace on off) f) :
    exec (.setall on off) s = .next (s.endedWrites f (setallTrace on off)) := by
  obtain ⟨f1, h1, f2, h2, f3, h3, f4, h4, rfl⟩ := h
  rw [exec_setall_start hv, runSeq_write rfl h1 rfl, runSeq_write rfl h2 rfl, runSeq_write rfl h3 rfl,
    runSeq_write_last rfl h4 rfl, running_complete_writes (.inr (.inr rfl))]
  rfl

/-- `SETALL` cut off at a write that fails (R131). -/
theorem exec_setall_cutOff {e : Word32} {evs : List Event} (hv : s.ctlValid = true)
    (hcut : CutOff (setallTrace on off) e evs) (h : s.far.Serves evs f) :
    exec (.setall on off) s = .next (s.endedTransport e f evs) := by
  have hrows : CutsOff 8 s (.start .setall 0 (on.extractLsb' 0 8) (on.extractLsb' 8 8) (off.extractLsb' 0 8)
      (off.extractLsb' 8 8)) [] (setallTrace on off) :=
    cutsOff_write rfl rfl <| cutsOff_write rfl rfl <| cutsOff_write rfl rfl <| cutsOff_write_last rfl
  rw [exec_setall_start hv]
  exact hrows e s.far f evs hcut h

end setall

/-- Settles O50: the four writes are answered, or one of them fails, or there is no Controller. -/
theorem setallResult : Obligations.SetallResult := fun _ on off _ =>
  ⟨decode_encode (.setall on off), exec_setall_serves, fun _ _ => exec_setall_cutOff, fun hv => begin_noController hv _⟩

/-! ### The range of `CALCPS` -/

/-- When the prescale of a rate is at least `k`: 12207 is `OSC_FREQ / 4096`, rounded down (R128). -/
theorem le_prescaleOf_iff {r : Nat} (hr : 0 < r) (k : Nat) : (k : Int) ≤ prescaleOf r ↔ (2 * k + 1) * r ≤ 12207 := by
  have hround : k + 1 ≤ roundDiv Config.oscFreq (4096 * r) ↔
      (k + 1) * (2 * (4096 * r)) ≤ 2 * Config.oscFreq + 4096 * r := Nat.le_div_iff_mul_le (by omega)
  have hscale : (k + 1) * (2 * (4096 * r)) = 4096 * ((2 * k + 1) * r) + 4096 * r := by ring
  rw [hscale, Config.oscFreq] at hround
  simp only [prescaleOf, Config.oscFreq]
  omega

/-- The prescale is at least -1, which the rounding gives where it is 0. -/
theorem neg_one_le_prescaleOf (r : Nat) : -1 ≤ prescaleOf r := by
  simp only [prescaleOf]
  omega

/-- The two narrowings of R7 agree on what fits a byte. -/
theorem narrowPrescale_agree {p : Int} (h0 : 0 ≤ p) (h255 : p ≤ 255) :
    narrowPrescale .wrap p = narrowPrescale .saturate p := by
  simp only [narrowPrescale, max_eq_left h0, min_eq_left h255]

/-- Settles O47: each bound on the prescale is a bound on the rate. -/
theorem calcpsRange : Obligations.CalcpsRange := by
  intro r hr _
  have h0 := le_prescaleOf_iff hr 0
  have h256 := le_prescaleOf_iff hr 256
  have h264 := le_prescaleOf_iff hr 264
  have h6104 := le_prescaleOf_iff hr 6104
  have hneg := neg_one_le_prescaleOf r
  push_cast at h0 h256 h264 h6104
  refine ⟨by omega, by omega, by omega, fun hlo hhi => narrowPrescale_agree (by omega) (by omega)⟩

/-! ### The order of the accesses -/

/-- The accesses of a row (R123, R126): one, or none where it computes. -/
def Action.accesses : Action → List Access
  | .read a => [.r a]
  | .write a _ => [.w a]
  | .wait => [.wait]
  | .compute => []

/-- What `u` is after `s` has performed the row `act`: in the same row still, with the row's accesses recorded. -/
structure State.Performed (s : State) (act : Action) (u : State) : Prop where
  op : u.seq.op = s.seq.op
  step : u.seq.step = s.seq.step
  busy : u.busy = s.busy
  events : ∃ evs, u.events = s.events ++ evs ∧ evs.map Event.access = act.accesses

/-- The record of an answered access or of a wait performs the row. -/
theorem State.Performed.log (s : State) (f : FarSide) {ev : Event} {act : Action} (h : [ev.access] = act.accesses) :
    s.Performed act ((s.setFar f).log ev) := ⟨rfl, rfl, rfl, [ev], rfl, h⟩

/-- A byte that is latched changes nothing of it. -/
theorem State.Performed.latch {s u : State} {act : Action} (h : s.Performed act u) (b : Byte) :
    s.Performed act (u.setSeq (s.seq.latch b)) := ⟨latch_op _ b, latch_step _ b, h.busy, h.events⟩

/-- A sequencer step waits for the far side, or it performs its row and then goes on or takes the exception of a failed
access. -/
theorem seqStep_performs (s : State) : seqStep s = .noRow ∨ (∃ f, seqStep s = .stopped (s.setFar f)) ∨
    ∃ act u, (seqStep s = u.advance ∨ ∃ e, seqStep s = .stopped (u.raise (.transport e))) ∧
      s.seq.action = some act ∧ s.Performed act u := by
  rcases seqStep_cases s rfl with ⟨h, -⟩ | ⟨f, h, -⟩ | ⟨a, e, ha, h⟩ | ⟨a, v, e, ha, h⟩ | ⟨a, b, ha, h⟩ | ⟨a, v, ha, -, h⟩ |
    ⟨ha, h⟩ | ⟨ha, h⟩
  · exact .inl h
  · exact .inr (.inl ⟨f, h⟩)
  · exact .inr (.inr ⟨_, _, .inr ⟨e, h⟩, ha, .log s _ rfl⟩)
  · exact .inr (.inr ⟨_, _, .inr ⟨e, h⟩, ha, .log s _ rfl⟩)
  · exact .inr (.inr ⟨_, _, .inl h, ha, (State.Performed.log s _ rfl).latch b⟩)
  · exact .inr (.inr ⟨_, _, .inl h, ha, .log s _ rfl⟩)
  · exact .inr (.inr ⟨_, _, .inl h, ha, .log s _ rfl⟩)
  · exact .inr (.inr ⟨_, _, .inl h, ha, rfl, rfl, rfl, [], by simp, rfl⟩)

/-- `table k` is the list of accesses from row `k` of the step table of `op` on. -/
structure SeqOp.HasAccesses (op : SeqOp) (table : Nat → List Access) : Prop where
  row : ∀ (q : Sequencer) (act : Action), q.op = op → q.action = some act →
    table q.step.toNat = act.accesses ++ table (q.step.toNat + 1)
  ended : table (op.last + 1) = []

theorem hasAccesses_init : SeqOp.init.HasAccesses initFrom := by
  refine ⟨fun q act hop ha => ?_, rfl⟩
  simp only [Sequencer.action, hop] at ha
  split at ha <;> cases ha <;> rename_i hk <;> rw [hk] <;> rfl

theorem hasAccesses_setrate : SeqOp.setrate.HasAccesses setrateFrom := by
  refine ⟨fun q act hop ha => ?_, rfl⟩
  simp only [Sequencer.action, hop] at ha
  split at ha <;> cases ha <;> rename_i hk <;> rw [hk] <;> rfl

/-- From a row, the step number goes up without wrapping round: the largest is 7 (R33). -/
theorem toNat_step_succ {q : Sequencer} {act : Action} (ha : q.action = some act) :
    (q.step + 1).toNat = q.step.toNat + 1 := by
  obtain ⟨-, -, hle⟩ := (action_isSome_iff q).1 (by simp [ha])
  have hl := q.op.last_le
  have hone : (1 : BitVec 4).toNat = 1 := rfl
  rw [BitVec.toNat_add, hone]
  omega

section follows

variable {s t u : State} {table : Nat → List Access} {k k' : Nat}

/-- A busy block that has recorded nothing new waits in its row. -/
theorem State.Follows.waiting (hb : t.busy = true) (hseq : t.seq = s.seq) (hev : t.events = s.events) :
    s.Follows t table s.seq.step.toNat :=
  ⟨[], by simp [hev], by simp, fun _ => by simp [hseq], fun hidle => by simp [hb] at hidle⟩

/-- A command that ends in a row has recorded that row's accesses, which are the last ones if it ended with `OK`. -/
theorem State.Follows.ending {evs : List Event} {rest : List Access} (hb : t.busy = false)
    (hev : t.events = s.events ++ evs) (htable : table k = evs.map Event.access ++ rest) (hlast : t.code = 0 → rest = []) :
    s.Follows t table k :=
  ⟨evs, hev, ⟨rest, htable.symm⟩, fun hbusy => by simp [hb] at hbusy, fun _ hok => by simp [htable, hlast hok]⟩

/-- A row's accesses before what follows the rest of the table follow the table. -/
theorem State.Follows.cons {evs : List Event} (hev : u.events = s.events ++ evs)
    (htable : table k = evs.map Event.access ++ table k') (h : u.Follows t table k') : s.Follows t table k := by
  obtain ⟨more, hmore, ⟨rest, hrest⟩, hbusy, hok⟩ := h
  refine ⟨evs ++ more, by rw [hmore, hev, List.append_assoc], ⟨rest, ?_⟩, fun hb => ?_, fun hb hcode => ?_⟩
  · rw [htable, List.map_append, List.append_assoc, hrest]
  · rw [htable, List.map_append, List.append_assoc, hbusy hb]
  · rw [htable, List.map_append, hok hb hcode]

/-- A run of a busy block performs the rows of its table in order, from the one it stands in. By induction on the fuel. -/
theorem runSeq_follows {n : Nat} (htable : s.seq.op.HasAccesses table) (hb : s.busy = true) (h : runSeq n s = .next t) :
    s.Follows t table s.seq.step.toNat := by
  induction n generalizing s with
  | zero =>
    cases h
    exact .waiting hb rfl rfl
  | succ n ih =>
    rcases seqStep_performs s with e | ⟨f, e⟩ | ⟨act, u, e, ha, ⟨hop, hstep, hbusy, evs, hev, hacc⟩⟩
    · simp [runSeq, e] at h
    · rw [runSeq_stopped n e] at h
      cases h
      exact .waiting hb rfl rfl
    · have hrow := htable.row s.seq act rfl ha
      rw [← hacc] at hrow
      rcases e with e | ⟨x, e⟩
      · rcases advance_cases u with ⟨hlast, e'⟩ | ⟨-, e'⟩ <;> rw [e'] at e
        · rw [runSeq_stopped n e] at h
          cases h
          rw [hop, hstep] at hlast
          exact .ending rfl (by simp [hev]) hrow fun _ => by rw [hlast, htable.ended]
        · obtain ⟨-, hop', hstep', -⟩ := seqStep_running e
          have hrest := ih (s := u.setSeq { u.seq with step := u.seq.step + 1 }) (hop' ▸ htable) (hbusy.trans hb)
            ((runSeq_running n e).symm.trans h)
          rw [hstep', toNat_step_succ ha] at hrest
          exact .cons hev hrow hrest
      · rw [runSeq_stopped n e] at h
        cases h
        exact .ending (by simp) (by simp [hev]) hrow fun hcode => absurd hcode (by simp [Exn.code])

end follows

/-- A command follows the table of the sequence it starts, from row 1 on, or it is refused before its first access. -/
theorem exec_follows {i : Instr} {s t : State} {table : Nat → List Access} (hc : ∀ c, ¬ Computes i s c)
    (hq : ∀ b q, Starts i s b q → q.op.HasAccesses table ∧ q.step = 1) (h : exec i s = .next t) :
    s.Follows t table 1 := by
  rcases exec_next h with ⟨x, ⟨-, hx, -⟩, rfl⟩ | ⟨c, hcomp, -⟩ | ⟨b, q, hb, hr⟩
  · exact .ending (evs := []) (by simp) (by simp) rfl fun hcode => absurd (by simpa using hcode) hx
  · exact absurd hcomp (hc c)
  · obtain ⟨htable, hstep⟩ := hq b q hb
    rw [hb.frame] at hr
    have hrows := runSeq_follows (s := { s with ctlValid := b.ctlValid, seq := q, busy := true }) htable rfl hr
    rw [hstep] at hrows
    exact hrows

/-- Settles O42: both commands start in row 1 of their table, and every run follows the table of its sequence. -/
theorem sequencesKeepTheirOrder : Obligations.SequencesKeepTheirOrder := by
  refine fun s t => ⟨exec_follows (fun _ => id) ?_, fun p => exec_follows (fun _ => id) ?_, fun hb h => ?_⟩
  · rintro b q ⟨-, rfl⟩
    exact ⟨hasAccesses_init, rfl⟩
  · rintro b q ⟨-, -, rfl⟩
    exact ⟨hasAccesses_setrate, rfl⟩
  · simp only [proceed, hb, if_true] at h
    exact ⟨fun hop => runSeq_follows (hop ▸ hasAccesses_init) hb h,
      fun hop => runSeq_follows (hop ▸ hasAccesses_setrate) hb h⟩

end Sys2Proof.Machine
end

section
/-! The servo commands (R140 to R146): `MKSERVO`, and the two conversions between angles and ticks. -/

namespace Sys2Proof.Machine

/-! ### The arithmetic of the conversions -/

section conversions

variable {mn mx t u : Nat} {a b : Int}

/-- The ticks of an angle by R143's formula, where no subtraction is cut off at 0. -/
theorem ticksOf_formula (hle : mn ≤ mx) (ha : -90 ≤ a) :
    (ticksOf mn mx a : Int) = mn + (a + 90) * (mx - mn) / 180 := by
  rw [ticksOf, Nat.cast_add, Int.natCast_ediv, Nat.cast_mul, Int.toNat_of_nonneg (by omega), Nat.cast_sub hle,
    Nat.cast_ofNat]

theorem le_ticksOf (mn mx : Nat) (a : Int) : mn ≤ ticksOf mn mx a := Nat.le_add_right mn _

theorem ticksOf_mono (mn mx : Nat) (h : a ≤ b) : ticksOf mn mx a ≤ ticksOf mn mx b := by
  have hshift : (a + 90).toNat ≤ (b + 90).toNat := Int.toNat_le_toNat (by omega)
  unfold ticksOf
  gcongr

/-- The angle 90 maps to the upper bound (R140). -/
theorem ticksOf_ninety (h : mn ≤ mx) : ticksOf mn mx 90 = mx := by
  have : ticksOf mn mx 90 = mn + 180 * (mx - mn) / 180 := rfl
  omega

theorem ticksOf_le (hle : mn ≤ mx) (ha : a ≤ 90) : ticksOf mn mx a ≤ mx :=
  (ticksOf_mono mn mx ha).trans_eq (ticksOf_ninety hle)

/-- The angle of ticks by R144's formula, where no subtraction is cut off at 0. -/
theorem angleOf_formula (hlo : mn ≤ t) (hhi : t ≤ mx) :
    angleOf mn mx t = (360 * ((t : Int) - mn) + (mx - mn)) / (2 * (mx - mn)) - 90 := by
  have hnum : 2 * ((t - mn) * 180) + (mx - mn) = 360 * (t - mn) + (mx - mn) := by omega
  rw [angleOf, roundDiv, hnum]
  push_cast [Nat.cast_sub hlo, Nat.cast_sub (hlo.trans hhi)]
  rfl

theorem neg_ninety_le_angleOf (mn mx t : Nat) : -90 ≤ angleOf mn mx t := by
  unfold angleOf
  omega

theorem angleOf_mono (mn mx : Nat) (h : t ≤ u) : angleOf mn mx t ≤ angleOf mn mx u := by
  unfold angleOf roundDiv
  gcongr

/-- The upper bound of a range that is not empty maps to the angle 90 (R140). -/
theorem angleOf_upper (h : mn < mx) : angleOf mn mx mx = 90 := by
  have hround : roundDiv ((mx - mn) * 180) (mx - mn) = 180 :=
    Nat.div_eq_of_lt_le (by omega) (by omega)
  rw [angleOf, hround]
  rfl

theorem angleOf_le (hlt : mn < mx) (ht : t ≤ mx) : angleOf mn mx t ≤ 90 :=
  (angleOf_mono mn mx ht).trans_eq (angleOf_upper hlt)

/-- Where a degree is at least two ticks wide, the rounding of R144 makes up for the truncation of R143: the tick lost is at
most half a degree (R145). -/
theorem angleOf_ticksOf (hwide : 360 ≤ mx - mn) (ha : -90 ≤ a) : angleOf mn mx (ticksOf mn mx a) = a := by
  obtain ⟨k, rfl⟩ : ∃ k : Nat, a = k - 90 := ⟨(a + 90).toNat, by omega⟩
  have hticks : ticksOf mn mx (k - 90) - mn = k * (mx - mn) / 180 := by simp [ticksOf]
  have hround : roundDiv (k * (mx - mn) / 180 * 180) (mx - mn) = k := by
    have hlow : k * (2 * (mx - mn)) = 2 * (k * (mx - mn)) := Nat.mul_left_comm ..
    have hhigh : (k + 1) * (2 * (mx - mn)) = 2 * (k * (mx - mn)) + 2 * (mx - mn) := by rw [Nat.succ_mul, hlow]
    exact Nat.div_eq_of_lt_le (by omega) (by omega)
  rw [angleOf, hticks, hround]

end conversions

/-- Ticks of a slot's range fit `res[0]` (R143). -/
theorem toNat_half_ticks {n : Nat} {mx : BitVec 12} (h : n ≤ mx.toNat) : (half n).toNat = n :=
  Nat.mod_eq_of_lt (h.trans_lt (mx.isLt.trans (by decide)))

/-- An angle in [-90, 90] fits `res[0]`, signed (R144). -/
theorem toInt_sext_angle {a : Int} (hlo : -90 ≤ a) (hhi : a ≤ 90) : (sext a).toInt = a :=
  BitVec.toInt_ofInt_eq_self (by decide) (by omega) (by omega)

/-! ### `MKSERVO` -/

section settings

variable {mn mx : Half}

theorem checkSettings_ok (hmn : mn.toNat ≤ 4095) (hmx : mx.toNat ≤ 4095) (hle : mn.toNat ≤ mx.toNat) :
    checkSettings mn mx = .ok () := by
  simp only [checkSettings, Config.tickMax, Nat.not_lt.2 hmn, Nat.not_lt.2 hmx, Nat.not_lt.2 hle, if_false]

theorem checkSettings_badMin (hmn : 4095 < mn.toNat) :
    checkSettings mn mx = .error (.rangeSettings 0 4095 mn.toNat) :=
  if_pos hmn

theorem checkSettings_badMax (hmn : mn.toNat ≤ 4095) (hmx : 4095 < mx.toNat) :
    checkSettings mn mx = .error (.rangeSettings 0 4095 mx.toNat) :=
  (if_neg (Nat.not_lt.2 hmn)).trans (if_pos hmx)

theorem checkSettings_badOrder (hmn : mn.toNat ≤ 4095) (hlt : mx.toNat < mn.toNat) :
    checkSettings mn mx = .error (.rangeSettings 0 mx.toNat mn.toNat) :=
  (if_neg (Nat.not_lt.2 hmn)).trans <| (if_neg (Nat.not_lt.2 (hlt.le.trans hmn))).trans (if_pos hlt)

/-- Settings that a check refuses end `MKSERVO` with that check's exception (R141). -/
theorem exec_mkservo_refused {s : State} {slot : Byte} {index : Half} {x : Exn} (hs : slot.toNat < 16)
    (hi : index.toNat ≤ 15) (h : checkSettings mn mx = .error x) :
    exec (.mkservo slot index mn mx) s = .next (s.raise x) := by
  simp only [exec, execMkservo, newSlot_ok hs, checkIndex_ok hi, h]
  rfl

end settings

/-- Settles O51: the slot is checked first, then the index, then the three checks of the settings. -/
theorem mkservoResult : Obligations.MkservoResult := by
  refine fun s slot index mn mx => ⟨decode_encode (.mkservo slot index mn mx), fun hs hi hmn hmx hle => ?_,
    fun hs hi => ?_, fun hs hi hmn => exec_mkservo_refused hs hi (checkSettings_badMin hmn),
    fun hs hi hmn hmx => exec_mkservo_refused hs hi (checkSettings_badMax hmn hmx),
    fun hs hi hmn hlt => exec_mkservo_refused hs hi (checkSettings_badOrder hmn hlt), fun hs => ?_⟩
  · simp only [exec, execMkservo, newSlot_ok hs, checkIndex_ok hi, checkSettings_ok hmn hmx hle,
      ← BitVec.setWidth_eq_extractLsb' (by decide : 4 ≤ 16), ← BitVec.setWidth_eq_extractLsb' (by decide : 12 ≤ 16)]
    rfl
  · simp only [exec, execMkservo, newSlot_ok hs, checkIndex_bad hi]
    rfl
  · simp only [exec, execMkservo, newSlot_bad hs]
    rfl

/-! ### How a conversion reads its slot -/

section servoSlots

variable {s : State} {slot : Byte} {c : Slot}

/-- A refused slot ends a conversion with `BadSlot` (R101, R142). -/
theorem settle_noServoSlot (h : s.NoSlot slot) (k : Slot → Except Exn State) :
    s.settle (servoSlot s slot >>= k) = s.ended 8 := by
  rw [servoSlot_bad (noSlot_iff.1 h)]
  rfl

/-- A LedChannel ends a conversion with `BadKind` (R142). -/
theorem settle_ledSlot (hc : s.HasSlot slot c) (hk : c.kind = .led) (k : Slot → Except Exn State) :
    s.settle (servoSlot s slot >>= k) = s.ended 9 := by
  rw [servoSlot_led hc hk]
  rfl

/-- A ServoChannel hands its descriptor to the rest of the conversion (R142). -/
theorem servoSlot_bind_servo {α : Type} (hc : s.HasSlot slot c) (hk : c.kind = .servo) (k : Slot → Except Exn α) :
    servoSlot s slot >>= k = k c := by
  rw [servoSlot_ok hc hk]
  rfl

end servoSlots

/-! ### `D2P` -/

section d2p

variable {s t : State} {slot : Byte} {c : Slot} {x : Half}

theorem exec_d2p_outside (hc : s.HasSlot slot c) (hk : c.kind = .servo) (hx : x.toInt < -90 ∨ 90 < x.toInt) :
    exec (.d2p slot x) s = .next (s.endedRange 2 (-90) 90 x.toInt) := by
  simp only [exec, execD2p, servoSlot_bind_servo hc hk, gt_iff_lt, hx, if_true]
  rfl

theorem exec_d2p_inside (hc : s.HasSlot slot c) (hk : c.kind = .servo) (hlo : -90 ≤ x.toInt) (hhi : x.toInt ≤ 90) :
    exec (.d2p slot x) s = .next (s.setRes0 (half (ticksOf c.minTick.toNat c.maxTick.toNat x.toInt))).complete := by
  have hx : ¬ (x.toInt < -90 ∨ 90 < x.toInt) := by omega
  simp only [exec, execD2p, servoSlot_bind_servo hc hk, gt_iff_lt, hx, if_false]
  rfl

/-- A `D2P` that ends with `OK` had an angle of the domain (R143). -/
theorem exec_d2p_completed (hc : s.HasSlot slot c) (hk : c.kind = .servo) (h : exec (.d2p slot x) s = .next t)
    (hok : t.code = 0) :
    -90 ≤ x.toInt ∧ x.toInt ≤ 90 ∧ t = (s.setRes0 (half (ticksOf c.minTick.toNat c.maxTick.toNat x.toInt))).complete := by
  by_cases hx : x.toInt < -90 ∨ 90 < x.toInt
  · rw [exec_d2p_outside hc hk hx] at h
    cases h
    cases hok
  · have hlo : -90 ≤ x.toInt := by omega
    have hhi : x.toInt ≤ 90 := by omega
    rw [exec_d2p_inside hc hk hlo hhi] at h
    cases h
    exact ⟨hlo, hhi, rfl⟩

end d2p

/-- Settles O52: R143's formula needs no cut-off subtraction, and its ticks fit the result register. -/
theorem d2pResult : Obligations.D2pResult := by
  refine fun s slot c x => ⟨decode_encode (.d2p slot x), fun hc hk hle hlo hhi => ?_, exec_d2p_outside,
    fun hc hk => congrArg _ (settle_ledSlot hc hk _), fun h => congrArg _ (settle_noServoSlot h _)⟩
  refine ⟨half (ticksOf c.minTick.toNat c.maxTick.toNat x.toInt), ?_, exec_d2p_inside hc hk hlo hhi⟩
  rw [toNat_half_ticks (ticksOf_le hle hhi), ticksOf_formula hle hlo]

/-! ### `P2D` -/

section p2d

variable {s t : State} {slot : Byte} {c : Slot} {x : Half}

theorem exec_p2d_outside (hc : s.HasSlot slot c) (hk : c.kind = .servo)
    (hx : x.toNat < c.minTick.toNat ∨ c.maxTick.toNat < x.toNat) :
    exec (.p2d slot x) s = .next (s.endedRange 3 c.minTick.toNat c.maxTick.toNat x.toNat) := by
  simp only [exec, execP2d, servoSlot_bind_servo hc hk, gt_iff_lt, hx, if_true]
  rfl

theorem exec_p2d_zeroWidth (hc : s.HasSlot slot c) (hk : c.kind = .servo) (hx : x.toNat = c.minTick.toNat)
    (hz : c.minTick = c.maxTick) : exec (.p2d slot x) s = .next (s.ended 6) := by
  simp only [exec, execP2d, servoSlot_bind_servo hc hk, gt_iff_lt, hx, ← hz, lt_irrefl, or_self, Nat.sub_self, if_true,
    if_false]
  rfl

theorem exec_p2d_inside (hc : s.HasSlot slot c) (hk : c.kind = .servo) (hlo : c.minTick.toNat ≤ x.toNat)
    (hhi : x.toNat ≤ c.maxTick.toNat) (hlt : c.minTick.toNat < c.maxTick.toNat) :
    exec (.p2d slot x) s = .next (s.setRes0 (sext (angleOf c.minTick.toNat c.maxTick.toNat x.toNat))).complete := by
  have hx : ¬ (x.toNat < c.minTick.toNat ∨ c.maxTick.toNat < x.toNat) := by omega
  simp only [exec, execP2d, servoSlot_bind_servo hc hk, gt_iff_lt, hx, Nat.sub_ne_zero_of_lt hlt, if_false]
  rfl

/-- A `P2D` that ends with `OK` had ticks of the slot's range, which is not of zero width (R144). -/
theorem exec_p2d_completed (hc : s.HasSlot slot c) (hk : c.kind = .servo) (h : exec (.p2d slot x) s = .next t)
    (hok : t.code = 0) :
    c.minTick.toNat < c.maxTick.toNat ∧ x.toNat ≤ c.maxTick.toNat ∧
      t = (s.setRes0 (sext (angleOf c.minTick.toNat c.maxTick.toNat x.toNat))).complete := by
  by_cases hx : x.toNat < c.minTick.toNat ∨ c.maxTick.toNat < x.toNat
  · rw [exec_p2d_outside hc hk hx] at h
    cases h
    cases hok
  have hlo : c.minTick.toNat ≤ x.toNat := by omega
  have hhi : x.toNat ≤ c.maxTick.toNat := by omega
  rcases (hlo.trans hhi).eq_or_lt with hz | hlt
  · rw [exec_p2d_zeroWidth hc hk (by omega) (BitVec.eq_of_toNat_eq hz)] at h
    cases h
    cases hok
  · rw [exec_p2d_inside hc hk hlo hhi hlt] at h
    cases h
    exact ⟨hlt, hhi, rfl⟩

end p2d

/-- Settles O53: R144's formula needs no cut-off subtraction, and its angle fits the result register. -/
theorem p2dResult : Obligations.P2dResult := by
  refine fun s slot c x => ⟨decode_encode (.p2d slot x), fun hc hk hlo hhi hne => ?_, exec_p2d_outside,
    exec_p2d_zeroWidth, fun hc hk => congrArg _ (settle_ledSlot hc hk _), fun h => congrArg _ (settle_noServoSlot h _)⟩
  have hlt : c.minTick.toNat < c.maxTick.toNat := (hlo.trans hhi).lt_of_ne fun e => hne (BitVec.eq_of_toNat_eq e)
  refine ⟨sext (angleOf c.minTick.toNat c.maxTick.toNat x.toNat), ?_, exec_p2d_inside hc hk hlo hhi hlt⟩
  rw [toInt_sext_angle (neg_ninety_le_angleOf ..) (angleOf_le hlt hhi), angleOf_formula hlo hhi]

/-! ### The two conversions -/

/-- Settles O54: both conversions are monotone and reach the end of their range at the end of their domain. -/
theorem conversionsStayInRangeAndRise : Obligations.ConversionsStayInRangeAndRise := by
  refine fun s t u slot c x y hc hk => ⟨fun hle hxy ht hu ht0 hu0 => ?_, fun hxy ht hu ht0 hu0 => ?_⟩
  · obtain ⟨-, hx, rfl⟩ := exec_d2p_completed hc hk ht ht0
    obtain ⟨-, hy, rfl⟩ := exec_d2p_completed hc hk hu hu0
    simp only [State.complete_res0, State.setRes0_res0, toNat_half_ticks (ticksOf_le hle hx),
      toNat_half_ticks (ticksOf_le hle hy)]
    exact ⟨le_ticksOf .., ticksOf_mono _ _ hxy, ticksOf_le hle hy⟩
  · obtain ⟨hlt, hx, rfl⟩ := exec_p2d_completed hc hk ht ht0
    obtain ⟨-, hy, rfl⟩ := exec_p2d_completed hc hk hu hu0
    simp only [State.complete_res0, State.setRes0_res0, toInt_sext_angle (neg_ninety_le_angleOf ..) (angleOf_le hlt hx),
      toInt_sext_angle (neg_ninety_le_angleOf ..) (angleOf_le hlt hy)]
    exact ⟨neg_ninety_le_angleOf .., angleOf_mono _ _ hxy, angleOf_le hlt hy⟩

/-- Settles O55: the slot is still there after `D2P`, and a degree of the default settings is more than two ticks wide. -/
theorem defaultSettingsRoundTrip : Obligations.DefaultSettingsRoundTrip := by
  intro s t slot c x hc hk hmin hmax ht ht0
  obtain ⟨hlo, hhi, rfl⟩ := exec_d2p_completed hc hk ht ht0
  simp only [State.complete_res0, State.setRes0_res0]
  have hlt : c.minTick.toNat < c.maxTick.toNat := by simp [hmin, hmax]
  have hticks := toNat_half_ticks (ticksOf_le hlt.le hhi)
  refine ⟨_, exec_p2d_inside hc hk ?_ ?_ hlt, rfl, ?_⟩
  · exact (le_ticksOf ..).trans_eq hticks.symm
  · exact hticks.trans_le (ticksOf_le hlt.le hhi)
  · have hback := angleOf_ticksOf (mn := c.minTick.toNat) (mx := c.maxTick.toNat) (by simp [hmin, hmax]) hlo
    simp only [State.complete_res0, State.setRes0_res0, hticks, hback, sext, BitVec.ofInt_toInt]

end Sys2Proof.Machine
end

section
/-! Exceptions and status codes (spec/60_exceptions.md): the codes of a command's row (R165, R170), the empty trace of a
refusal (R162, R164, R165), and the end at the first failed access (R163, R166). -/

namespace Sys2Proof.Machine

/-! ### The codes of the rows -/

/-- Once a sequence runs, its command ends with OK or TRANSPORT (R165). -/
theorem SeqOp.mem_mayReport_iff {op : SeqOp} (h : op ≠ .idle) (c : Byte) : c ∈ op.mayReport ↔ c = 0 ∨ c = 5 := by
  cases op
  case idle => exact absurd rfl h
  all_goals simp [SeqOp.mayReport]

/-- Every row of R170 begins with OK. -/
theorem ok_mem_mayReport (i : Instr) : 0 ∈ mayReport i := by
  cases i <;> exact .head _

/-- The row of a command that starts a sequence has TRANSPORT (R163, R170). -/
theorem Starts.transport_mem_mayReport {i : Instr} {s b : State} {q : Sequencer} (h : Starts i s b q) :
    5 ∈ mayReport i := by
  cases i <;> simp only [Starts] at h
  all_goals simp [mayReport]

/-- The codes that a sequence leaves open are in the row of the command that starts it (R170). -/
theorem Starts.mayReport_subset {i : Instr} {s b : State} {q : Sequencer} (h : Starts i s b q) :
    q.op ≠ .idle ∧ ∀ c ∈ q.op.mayReport, c ∈ mayReport i := by
  obtain ⟨hop, -⟩ := (action_isSome_iff q).1 (start_row h)
  refine ⟨hop, fun c hc => ?_⟩
  rcases (SeqOp.mem_mayReport_iff hop c).1 hc with rfl | rfl
  · exact ok_mem_mayReport i
  · exact h.transport_mem_mayReport

/-! ### How a run of a busy block reports -/

/-- A run that answers a next state has found a row, so it ran a sequence. -/
theorem op_ne_idle_of_runSeq {n : Nat} {s t : State} (h : runSeq (n + 1) s = .next t) : s.seq.op ≠ .idle := fun hop => by
  simp [runSeq, seqStep, Sequencer.action, hop] at h

/-- A run of a busy block ends its command with OK or TRANSPORT, or it leaves the block busy in the same sequence. -/
theorem runSeq_reports {n : Nat} {s t : State} (hb : s.busy = true) (h : runSeq n s = .next t) :
    (t.busy = false ∧ (t.code = 0 ∨ t.code = 5)) ∨ (t.busy = true ∧ t.seq.op = s.seq.op) := by
  obtain ⟨u, ⟨hf, hop, -⟩, rfl | hc⟩ := runSeq_end h
  · obtain ⟨-, -, -, -, -, -, hbusy⟩ := hf.fields
    exact .inr ⟨hbusy.trans hb, hop⟩
  · obtain ⟨-, hidle, -, hcode⟩ := hc.ended
    exact .inl ⟨hidle, hcode⟩

/-- A run ends its command with a code that its sequence leaves open, or it stays in the sequence. -/
theorem runSeq_mayReport {n : Nat} {s t : State} (hb : s.busy = true) (hop : s.seq.op ≠ .idle)
    (h : runSeq n s = .next t) :
    (t.busy = false → t.code ∈ s.seq.op.mayReport) ∧ (t.busy = true → t.seq.op = s.seq.op) := by
  rcases runSeq_reports hb h with ⟨hidle, hcode⟩ | ⟨hbusy, hsame⟩
  · exact ⟨fun _ => (SeqOp.mem_mayReport_iff hop _).2 hcode, fun hbusy => by simp [hidle] at hbusy⟩
  · exact ⟨fun hidle => by simp [hbusy] at hidle, fun _ => hsame⟩

/-- Settles O19: a check raises a code of the row, and a sequence leaves only OK and TRANSPORT open. -/
theorem commandReportsItsCodes : Obligations.CommandReportsItsCodes := by
  refine ⟨fun i s t h => ?_, fun s t hb h => ?_⟩
  · rcases exec_next h with ⟨x, ⟨hx, -⟩, rfl⟩ | ⟨c, -, rfl⟩ | ⟨b, q, hs, hr⟩
    · simpa using hx
    · simpa [codeOk] using ok_mem_mayReport i
    · obtain ⟨hop, hsub⟩ := hs.mayReport_subset
      obtain ⟨hend, hwait⟩ := runSeq_mayReport (s := (b.setSeq q).setBusy true) rfl hop hr
      refine ⟨fun hidle => hsub _ (hend hidle), fun hbusy => ?_⟩
      rw [hwait hbusy]
      exact ⟨hop, hsub⟩
  · simp only [proceed, hb, if_true] at h
    exact runSeq_mayReport hb (op_ne_idle_of_runSeq h) h

/-- Settles O21: a command that ends with neither OK nor TRANSPORT has run no sequence, and its exception writes only the
status and the error registers. -/
theorem refusedCommandHasEmptyTrace : Obligations.RefusedCommandHasEmptyTrace := by
  intro i s t h hb h0 h5
  rcases exec_next h with ⟨x, -, rfl⟩ | ⟨c, -, rfl⟩ | ⟨b, q, -, hr⟩
  · simp
  · exact absurd rfl h0
  · rcases runSeq_reports rfl hr with ⟨-, hcode⟩ | ⟨hbusy, -⟩
    · exact absurd hcode (not_or.2 ⟨h0, h5⟩)
    · simp [hbusy] at hb

/-- Settles O23: no access fails while a command is pending, so a failed access is the event that closes it. -/
theorem firstFailureEndsCommand : Obligations.FirstFailureEndsCommand := by
  intro s t h hb
  rcases moves_cases h with ⟨i, x, ⟨-, -, h5, -⟩, rfl⟩ | ⟨i, c, hc, rfl⟩ | ⟨u, hu, rfl | hend⟩
  · exact ⟨[], by simp, .inl ⟨by simpa using h5, by simp⟩⟩
  · rw [hc.frame]
    exact ⟨[], by simp, .inl ⟨by simp [codeOk], by simp⟩⟩
  · rw [hu.frame] at hb
    cases hb
  · obtain ⟨evs, he, hev⟩ := hu.events
    rcases hend with ⟨last, e, hlast, -, rfl⟩ | rfl
    · exact ⟨evs ++ [last], by simp [he], .inr ⟨rfl, evs, last, rfl, hlast, hev⟩⟩
    · exact ⟨evs, by simp [he], .inl ⟨by simp [codeOk], hev⟩⟩

end Sys2Proof.Machine
end

section
/-! Reset (R190 to R192), and the hazard of a `RESTART` written before the stabilization wait of `SETRATE` (R196, R198). -/

namespace Sys2Proof.Machine

/-! ### Reset -/

/-- The step in which the host applies reset. -/
theorem step_reset {s : State} {h : List HostAct} (hh : s.host = .reset :: h) :
    step s = .next (applyReset (s.setHost h)) := by
  simp only [step, hh]

/-- Reset of an idle block leaves the far side as it was (R191). -/
theorem abandonedFar_idle {s : State} (hb : s.busy = false) : abandonedFar s = s.far := by
  simp only [abandonedFar, hb]

/-- Reset leaves the far side as it was, but for the write in flight, which has landed or has not (R192). -/
theorem abandonedFar_cases (s : State) :
    abandonedFar s = s.far ∨ ∃ a v, s.seq.action = some (.write a v) ∧ abandonedFar s = s.far.store a v := by
  unfold abandonedFar
  split
  · rename_i a v _ ha
    split
    · exact .inr ⟨a, v, ha, rfl⟩
    · exact .inl rfl
  · exact .inl rfl

/-- Settles O11: reset states every register, keeps the record of events, and finds no write in flight in an idle block. -/
theorem resetTouchesNoBus : Obligations.ResetTouchesNoBus := by
  intro s h hh
  have hch (k : Fin 16) : (applyReset (s.setHost h)).ch[k] = ⟨false, .led, 0, 0, 0⟩ := resetGivesStatedValues.1 k
  exact ⟨_, step_reset hh, hch, rfl, rfl, rfl, rfl, rfl, rfl, rfl, fun hb => abandonedFar_idle (s := s.setHost h) hb⟩

/-- Settles O12: of the far side only the store can change, by the write in flight. -/
theorem resetWhileBusyAbandons : Obligations.ResetWhileBusyAbandons := by
  intro s h _ hh
  have hfar : (applyReset (s.setHost h)).far = abandonedFar (s.setHost h) := rfl
  refine ⟨_, step_reset hh, rfl, rfl, rfl, ?_⟩
  rw [hfar]
  rcases abandonedFar_cases (s.setHost h) with e | ⟨a, v, ha, e⟩ <;> rw [e]
  · exact ⟨rfl, rfl, .inl rfl⟩
  · exact ⟨rfl, rfl, .inr ⟨a, v, ha, rfl⟩⟩

/-! ### A run that ends with `OK`, row by row

Each of its accesses was answered with success, for a late answer leaves the block busy and a failed access ends it with
another code. -/

/-- The run from `u` ends its command with `OK`, in the state `t`. -/
structure EndsOk (n : Nat) (u t : State) : Prop where
  run : runSeq n u = .next t
  idle : t.busy = false
  code : t.code = 0

section endsOk

variable {n : Nat} {s t : State} {q : Sequencer} {f : FarSide} {evs : List Event} {a v : Byte}

/-- Where the run stops, the block is idle and reports `OK`. -/
theorem EndsOk.stopped {u w : State} (h : EndsOk (n + 1) u t) (hw : seqStep u = .stopped w) :
    w.busy = false ∧ w.code = 0 := by
  obtain ⟨hrun, hidle, hcode⟩ := h
  rw [runSeq_stopped n hw] at hrun
  cases hrun
  exact ⟨hidle, hcode⟩

/-- No step of the run leaves a busy block waiting for the far side. -/
theorem EndsOk.not_waiting {u : State} (h : EndsOk (n + 1) u t) (hb : u.busy = true) (g : FarSide) :
    seqStep u ≠ .stopped (u.setFar g) := fun hw => by
  obtain ⟨hidle, -⟩ := h.stopped hw
  simp [hb] at hidle

/-- No step of the run takes the exception of a failed access. -/
theorem EndsOk.not_failed {u w : State} (h : EndsOk (n + 1) u t) (e : Word32) :
    seqStep u ≠ .stopped (w.raise (.transport e)) := fun hw => by
  obtain ⟨-, hcode⟩ := h.stopped hw
  simp [Exn.code] at hcode

theorem EndsOk.read (h : EndsOk (n + 1) (s.running q f evs) t) (ha : q.action = some (.read a))
    (hl : (q.step.toNat == q.op.last) = false) :
    ∃ b g, EndsOk n (s.running (q.after b) g (evs ++ [.rd a b])) t := by
  have hstep : seqStep (s.running q f evs) = (s.running q f evs).gotRead a (f.read a) := by
    simp only [seqStep, State.running, ha]
  rcases hr : f.read a with ⟨_ | e | b, g⟩ <;> rw [hr] at hstep
  · exact absurd hstep (h.not_waiting rfl g)
  · exact absurd hstep (h.not_failed e)
  · exact ⟨b, g, (runSeq_read ha hr hl).symm.trans h.run, h.idle, h.code⟩

/-- The write of the run's row was answered with success. -/
theorem EndsOk.write_ok (h : EndsOk (n + 1) (s.running q f evs) t) (ha : q.action = some (.write a v)) :
    ∃ g, f.write a v = (some (.ok ()), g) := by
  have hstep : seqStep (s.running q f evs) = (s.running q f evs).gotWrite a v (f.write a v) := by
    simp only [seqStep, State.running, ha]
  rcases hr : f.write a v with ⟨_ | e | u, g⟩ <;> rw [hr] at hstep
  · exact absurd hstep (h.not_waiting rfl g)
  · exact absurd hstep (h.not_failed e)
  · exact ⟨g, rfl⟩

theorem EndsOk.write (h : EndsOk (n + 1) (s.running q f evs) t) (ha : q.action = some (.write a v))
    (hl : (q.step.toNat == q.op.last) = false) : ∃ g, EndsOk n (s.running q.next g (evs ++ [.wr a v])) t := by
  obtain ⟨g, hr⟩ := h.write_ok ha
  exact ⟨g, (runSeq_write ha hr hl).symm.trans h.run, h.idle, h.code⟩

theorem EndsOk.write_last (h : EndsOk (n + 1) (s.running q f evs) t) (ha : q.action = some (.write a v))
    (hl : (q.step.toNat == q.op.last) = true) : t.events = s.events ++ (evs ++ [.wr a v]) := by
  obtain ⟨g, hr⟩ := h.write_ok ha
  cases (runSeq_write_last ha hr hl).symm.trans h.run
  simp [State.running]

theorem EndsOk.wait (h : EndsOk (n + 1) (s.running q f evs) t) (ha : q.action = some .wait)
    (hl : (q.step.toNat == q.op.last) = false) : ∃ g, EndsOk n (s.running q.next g (evs ++ [.wait 5])) t := by
  have hstep : seqStep (s.running q f evs) = (s.running q f evs).gotWait f.waitGoesOn := by
    simp only [seqStep, State.running, ha]
  rcases hr : f.waitGoesOn with ⟨_ | _, g⟩ <;> rw [hr] at hstep
  · exact ⟨g, (runSeq_wait ha hr hl).symm.trans h.run, h.idle, h.code⟩
  · exact absurd hstep (h.not_waiting rfl g)

theorem EndsOk.compute (h : EndsOk (n + 1) (s.running q f evs) t) (ha : q.action = some .compute)
    (hl : (q.step.toNat == q.op.last) = false) : EndsOk n (s.running q.next f evs) t :=
  ⟨(runSeq_compute ha hl).symm.trans h.run, h.idle, h.code⟩

end endsOk

/-! ### `RESTART` before the wait -/

/-- A `SETRATE` that ends with `OK` has found a Controller (R120). -/
theorem ctlValid_of_exec_setrate {s t : State} {p : Byte} (h : exec (.setrate p) s = .next t) (hc : t.code = 0) :
    s.ctlValid = true := by
  rcases exec_next h with ⟨x, ⟨-, hx, -⟩, rfl⟩ | ⟨c, hcomp, -⟩ | ⟨b, q, ⟨hv, -⟩, -⟩
  · exact absurd (by simpa using hc) hx
  · exact hcomp.elim
  · exact hv

/-- A `SETRATE` that ends with `OK` in the move that accepts it has the whole trace of R125. -/
theorem exec_setrate_trace {s t : State} {p : Byte} (h : exec (.setrate p) s = .next t) (hb : t.busy = false)
    (hc : t.code = 0) : ∃ old, t.events = s.events ++ setrateTrace p old := by
  rw [exec_setrate_start (ctlValid_of_exec_setrate h hc)] at h
  obtain ⟨old, f1, h1⟩ := EndsOk.read ⟨h, hb, hc⟩ rfl rfl
  have h2 := h1.compute rfl rfl
  obtain ⟨f3, h3⟩ := h2.write rfl rfl
  obtain ⟨f4, h4⟩ := h3.write rfl rfl
  obtain ⟨f5, h5⟩ := h4.write rfl rfl
  obtain ⟨f6, h6⟩ := h5.wait rfl rfl
  exact ⟨old, h6.write_last rfl rfl⟩

/-- Between the write of `SLEEP` and the wait, `SETRATE` writes to `MODE_1` only the byte it has read (R126, R198). -/
theorem earlyRestart_setrateTrace (p old : Byte) : earlyRestart false (setrateTrace p old) = old.getLsbD 7 := by
  simp [setrateTrace, earlyRestart, mode1]

/-- Settles O45: the trace is that of R125, where the byte read is written back before the wait. -/
theorem earlyRestartOnlyIfOldHadRestart : Obligations.EarlyRestartOnlyIfOldHadRestart := by
  intro s t p h hb hc
  obtain ⟨old, hev⟩ := exec_setrate_trace h hb hc
  exact ⟨old, _, hev, earlyRestart_setrateTrace p old⟩

end Sys2Proof.Machine
end
